-- ==== Sys2Proof/Word.lean ====
section
/-! DEFINITION. The word types of OGGF (spec/00_scope.md R7): a byte is 8 bits, bit 0 its least significant bit. -/

namespace Sys2Proof

/-- A byte: the element of every byte space of R40. -/
abbrev Byte := BitVec 8

/-- A packet is one byte string handed to the framer (R9). -/
abbrev Packet := List Byte

end Sys2Proof
end

