-- ==== Sys2Proof/Config.lean ====
section
/-! DEFINITION. The parameters of the block (spec/00_scope.md R6). -/

namespace Sys2Proof.Config

/-- `POLY`: the generator polynomial, used most significant bit first, not reflected (R6). -/
def poly : BitVec 32 := 0x04C11DB7

/-- `CRC_INIT`: the accumulator at the start of a checksum (R6). `CRC_XOROUT` is 0 as well: nothing is XORed onto the result. -/
def crcInit : BitVec 32 := 0

/-- `FS`: the sample rate the duration unit uses (R6, D28). -/
def fs : Nat := 48000

/-- `SEG_MAX`: the largest lacing value (R6). -/
def segMax : Nat := 255

/-- `MAX_SEGS`: the most segments in one page (R6). -/
def maxSegs : Nat := 255

/-- `HDR_LEN`: bytes of page header before the segment table (R6). -/
def hdrLen : Nat := 27

/-- `PKT_MAX`: the longest packet a page can hold (R6). -/
def pktMax : Nat := 65024

/-- `PAYLOAD_MAX`: the most payload bytes in a page (R6). -/
def payloadMax : Nat := 65024

/-- `PAGE_MAX`: the longest serialised page (R6). -/
def pageMax : Nat := 65306

/-- `MAX_DUR`: the most samples one packet may carry, 120 ms (R6). -/
def maxDur : Nat := 5760

/-- `LENW`: the width of a command's payload length field (R6, D31). -/
def lenWidth : Nat := 32

/-- `OUT_CAP` is OPEN (R6, D21): a natural number, or unbounded (`none`). The capacity of an instance stands in
`State.outCap`, which no step writes, so that a statement over all states holds for every capacity. DESIGN CHOICE
(unsafe, log 2): this is the capacity of the state called `State.reset`, unbounded, the source software's situation (R42). -/
def outCap : Option Nat := none

end Sys2Proof.Config
end

