-- ==== Sys2Proof/Machine/State.lean ====
section
/-! DEFINITION. The architectural state of OGGF (spec/10_state.md R10), and what the interface to the host adds to it. -/

namespace Sys2Proof.Machine

/-- `PHASE`, the block's place in the fixed order of the muxer's steps (R13, R14, R15). -/
inductive Phase where
  | idle | head | tags | audio | done | fault
  deriving DecidableEq, Repr

/-- The block's own faults (spec/60_exceptions.md R150). They are recorded in the state and are next states, not outcomes. -/
inductive FaultCode where
  | malformedOpusPacket | packetTooLong | tooManySegments | sequenceError | illegalCommand | illegalRegister | outputOverflow
  deriving DecidableEq, Repr

/-- The result of measuring a packet (spec/41_duration.md R102): frames, samples per frame, samples. -/
structure Duration where
  nf  : Nat
  spf : Nat
  n   : Nat
  deriving DecidableEq, Repr

/-- The byte spaces that persist between commands (spec/20_memory.md R40). -/
inductive Space where
  | segtab | payload | out
  deriving DecidableEq, Repr

/-- R10's tuple, then the two streams and the one parameter. `SEGCNT`, `PAYLEN` and `OUTLEN` are the lengths of `segtab`,
`payload` and `out`, which hold exactly the defined bytes (U15, R11; log 3). -/
structure State where
  /-- `PHASE` (R14). -/
  phase   : Phase
  /-- `TAGPEND` (R24). -/
  tagpend : Bool
  /-- `FINALV` (R20). -/
  finalv  : Bool
  /-- `DESYNC` (R28). -/
  desync  : Bool
  /-- `ERR` (R27). -/
  err     : BitVec 8
  /-- `ERRINFO` (R27). -/
  errinfo : BitVec 32
  /-- `ERROP` (R27). -/
  errop   : BitVec 8
  /-- `CRC` (R16). -/
  crc     : BitVec 32
  /-- `SERIAL` (R17). -/
  serial  : BitVec 32
  /-- `SEQ` (R18). -/
  seq     : BitVec 32
  /-- `GRAN` (R19). -/
  gran    : BitVec 64
  /-- `FINAL` (R20). -/
  final   : BitVec 64
  /-- `PRESKIP` (R21). -/
  preskip : BitVec 16
  /-- `NSAMP` (R21), the operand's two's complement pattern. -/
  nsamp   : BitVec 32
  /-- `SEGTAB[0 .. SEGCNT-1]` (R22). -/
  segtab  : List Byte
  /-- `PAYLOAD[0 .. PAYLEN-1]` (R23). -/
  payload : List Byte
  /-- `PKTIDX` (R25). -/
  pktidx  : BitVec 32
  /-- `NBF` (R26). -/
  nbf     : BitVec 8
  /-- `SPF` (R26). -/
  spf     : BitVec 16
  /-- `NSMP` (R26). -/
  nsmp    : BitVec 32
  /-- `OUT[0 .. OUTLEN-1]` (R29). -/
  out     : List Byte
  /-- The bytes of `CMD` the host has sent and no command has consumed, in stream order (R61, U12; log 1). -/
  cmd     : List Byte
  /-- The words of `RSP` the host has not taken, oldest first (R40; log 1). -/
  rsp     : List (BitVec 64)
  /-- The parameter `OUT_CAP`, `none` when unbounded; no step writes it (R6, U11; log 2). -/
  outCap  : Option Nat
  deriving DecidableEq, Repr

/-- No outcome of a step is a fault of the model: the block's own faults are entries into phase `FAULT` (R160), and an
incomplete command (U12) and a desynchronised decoder (R28) leave the state as it is. The type has no constructor, which
is safe: nothing is left without its effect. -/
inductive Fault where
  deriving DecidableEq, Repr

/-- Why an instruction has no meaning. -/
inductive Refusal where
  /-- Answered by an arm of `exec` whose instruction has no meaning yet; safe. No arm answers it. -/
  | notModelled (mnemonic : String)
  deriving DecidableEq, Repr

/-- What a meaning answers. -/
abbrev Result := Host.Outcome State Fault Refusal

/-- The state after a hardware reset of an instance whose `OUT_CAP` is `cap` (R33, R180): every register and flag zero, the
three byte spaces empty, nothing pending on either stream. -/
def State.resetWith (cap : Option Nat) : State where
  phase   := .idle
  tagpend := false
  finalv  := false
  desync  := false
  err     := 0
  errinfo := 0
  errop   := 0
  crc     := Config.crcInit
  serial  := 0
  seq     := 0
  gran    := 0
  final   := 0
  preskip := 0
  nsamp   := 0
  segtab  := []
  payload := []
  pktidx  := 0
  nbf     := 0
  spf     := 0
  nsmp    := 0
  out     := []
  cmd     := []
  rsp     := []
  outCap  := cap

/-- The machine right after reset (R180), at the capacity of `Config.outCap` (log 2). -/
def State.reset : State := State.resetWith Config.outCap

end Sys2Proof.Machine
end

