-- ==== Sys2Proof/Machine/Flags.lean ====
section
/-! DEFINITION. Numbers of phases and faults, the packed view `STATUS` (spec/10_state.md R13), and the page flag values
(spec/30_encoding.md R72). -/

namespace Sys2Proof.Machine

/-- The number of a phase (R13). -/
def phaseCode : Phase → BitVec 3
  | .idle => 0
  | .head => 1
  | .tags => 2
  | .audio => 3
  | .done => 4
  | .fault => 5

/-- `STATUS` (R13): bits 2:0 `PHASE`, bit 3 `TAGPEND`, bit 4 `FINALV`, bit 5 `DESYNC`, bits 31:6 zero. -/
def statusWord (s : State) : BitVec 32 :=
  0#26 ++ BitVec.ofBool s.desync ++ BitVec.ofBool s.finalv ++ BitVec.ofBool s.tagpend ++ phaseCode s.phase

/-- The fault codes stored in `ERR` (R150). -/
def faultByte : FaultCode → BitVec 8
  | .malformedOpusPacket => 0x01
  | .packetTooLong => 0x02
  | .tooManySegments => 0x03
  | .sequenceError => 0x04
  | .illegalCommand => 0x05
  | .illegalRegister => 0x06
  | .outputOverflow => 0x07

/-- The flags byte of a page that neither begins nor ends the stream (R72, R115). -/
def pageFlagsNone : Byte := 0x00

/-- Beginning of stream (R72). PRESUMED by the spec itself, K2 (log 10). -/
def pageFlagsBos : Byte := 0x02

/-- End of stream (R72). PRESUMED by the spec itself, K2 (log 10). -/
def pageFlagsEos : Byte := 0x04

end Sys2Proof.Machine
end

