-- ==== Sys2Proof/Machine/Operands.lean ====
section
/-! DEFINITION. Operand forms: little-endian fields (spec/20_memory.md R44, spec/30_encoding.md R69), the one signed
operand `nsamp` (R20, R69), and the addressed reads and writes of a byte space (spec/00_scope.md R8). -/

namespace Sys2Proof

/-- `LE_n(v)`: the `n` bytes of `v`, least significant byte first (R7). -/
def leBytes : Nat → Nat → List Byte
  | 0, _ => []
  | n + 1, v => BitVec.ofNat 8 v :: leBytes n (v / 256)

/-- `le(s)`: the number whose little-endian bytes are `s` (R7). -/
def leValue : List Byte → Nat
  | [] => 0
  | b :: s => b.toNat + 256 * leValue s

/-- `MemRead(S, addr, n)` of R8: the `n` bytes of a space at `addr` to `addr+n-1`. -/
def memRead (m : List Byte) (addr n : Nat) : List Byte := (m.drop addr).take n

/-- `MemWrite(S, addr, len(bytes), bytes)` of R8. The space holds exactly its defined bytes (R11), so a write at the end extends it. -/
def memWrite (m : List Byte) (addr : Nat) (bytes : List Byte) : List Byte :=
  m.take addr ++ bytes ++ m.drop (addr + bytes.length)

/-- `sext_32(nsamp) > 0`: the playable sample count is known (R20, D11). -/
def countKnown (nsamp : BitVec 32) : Bool := decide (0 < nsamp.toInt)

/-- The final granule position (R20): `zext_64(PRESKIP) + zext_64(NSAMP)` when the count is known, else 0. -/
def finalGranule (preskip : BitVec 16) (nsamp : BitVec 32) : BitVec 64 :=
  if countKnown nsamp then preskip.setWidth 64 + nsamp.setWidth 64 else 0

end Sys2Proof
end

