-- ==== Sys2Proof/Machine/Ops.lean ====
section
/-! DEFINITION. The shared operations over registers and byte spaces: counts, byte reads, `RD`'s register map
(spec/10_state.md R12), responses, fault entry (spec/60_exceptions.md R160), the drop in phase `FAULT` (R162) and reset
(spec/70_reset_and_hazards.md R180, R181). -/

namespace Sys2Proof.Machine

/-- `SEGCNT` (R22). -/
def State.segcnt (s : State) : Nat := s.segtab.length

/-- `PAYLEN` (R23). -/
def State.paylen (s : State) : Nat := s.payload.length

/-- `OUTLEN` (R29). -/
def State.outlen (s : State) : Nat := s.out.length

/-- The bytes of a persistent space (R40): exactly its defined bytes, the first at address 0. -/
def spaceBytes (s : State) : Space → List Byte
  | .segtab => s.segtab
  | .payload => s.payload
  | .out => s.out

/-- The size in bytes of a persistent space (R40); `none` when unbounded. -/
def spaceSize (s : State) : Space → Option Nat
  | .segtab => some Config.maxSegs
  | .payload => some Config.payloadMax
  | .out => s.outCap

/-- One byte of a space; `none` at an address past its count, where no byte is part of the state (R11, U14, U15). -/
def byteAt (s : State) (sp : Space) (addr : Nat) : Option Byte := (spaceBytes s sp)[addr]?

/-- `n` bytes of length fit a space of size `cap`. -/
def fitsSize (n : Nat) : Option Nat → Bool
  | none => true
  | some cap => decide (n ≤ cap)

/-- The form of the memories: every persistent space holds no more bytes than R40 gives it. Equal contents are equal
lists, since a space's list is exactly its defined bytes (log 4). -/
def Memory.wf (s : State) : Bool :=
  fitsSize s.segtab.length (spaceSize s .segtab) && fitsSize s.payload.length (spaceSize s .payload)
    && fitsSize s.out.length (spaceSize s .out)

/-- A space as cells of (address, byte), addresses rising from 0. -/
def spaceCells (s : State) (sp : Space) : List Host.Cell := (spaceBytes s sp).zipIdx.map fun c => (c.2, c.1)

/-- `RD`'s register map: `zext_64` of register `reg`, each at the width of R12; `none` for a reserved number. -/
def readReg (reg : Byte) (s : State) : Option (BitVec 64) :=
  match reg.toNat with
  | 0x00 => some ((statusWord s).setWidth 64)
  | 0x01 => some (s.err.setWidth 64)
  | 0x02 => some (s.errinfo.setWidth 64)
  | 0x03 => some (s.errop.setWidth 64)
  | 0x04 => some (s.crc.setWidth 64)
  | 0x05 => some (s.serial.setWidth 64)
  | 0x06 => some (s.seq.setWidth 64)
  | 0x07 => some s.gran
  | 0x08 => some s.final
  | 0x09 => some (s.preskip.setWidth 64)
  | 0x0A => some (s.nsamp.setWidth 64)
  | 0x0B => some ((BitVec.ofNat 8 s.segcnt).setWidth 64)
  | 0x0C => some ((BitVec.ofNat 17 s.paylen).setWidth 64)
  | 0x0D => some (s.pktidx.setWidth 64)
  | 0x0E => some (BitVec.ofNat 64 s.outlen)
  | 0x0F => some (s.nbf.setWidth 64)
  | 0x10 => some (s.spf.setWidth 64)
  | 0x11 => some (s.nsmp.setWidth 64)
  | _ => none

/-- `Respond(v)` (R8): one 64-bit word at the end of `RSP`. -/
def respond (v : BitVec 64) (s : State) : State := { s with rsp := s.rsp ++ [v] }

/-- Fault entry (R160): the record written, `OUT` emptied, phase `FAULT`; nothing else changes. -/
def enterFault (f : FaultCode) (info : BitVec 32) (op : Byte) (s : State) : State :=
  { s with err := faultByte f, errinfo := info, errop := op, out := [], phase := .fault }

/-- `raise F(info)` (R8) of the command whose opcode byte is `op`. The record is written once (R161): in phase `FAULT`
nothing is recorded and nothing changes. -/
def raise (f : FaultCode) (info : BitVec 32) (op : Byte) (s : State) : State :=
  if s.phase = .fault then s else enterFault f info op s

/-- `IllegalCommand` (R155): a fault like any other, which also stops the decoder; in phase `FAULT` it only does that. -/
def raiseIllegalCommand (op : Byte) (s : State) : State := { raise .illegalCommand 0 op s with desync := true }

/-- `SequenceError` (R154): `ERRINFO` is the phase before the fault. -/
def raiseSequence (op : Byte) (s : State) : State := raise .sequenceError ((phaseCode s.phase).setWidth 32) op s

/-- A command that is dropped in phase `FAULT` with no effect at all (R162). -/
def unlessFault (effect : State → State) (s : State) : State := if s.phase = .fault then s else effect s

/-- `RST`'s effect (R141, R181): every register and flag of R10 at its reset value; `CMD`, `RSP` and the parameter stay. -/
def softReset (s : State) : State := { State.resetWith s.outCap with cmd := s.cmd, rsp := s.rsp }

/-- A page of `n` bytes would keep `OUT` within `OUT_CAP` (R42, R112). -/
def outFits (n : Nat) (s : State) : Bool := fitsSize (s.outlen + n) s.outCap

end Sys2Proof.Machine
end

