-- ==== Sys2Proof/Machine/Crc.lean ====
section
/-! DEFINITION. The checksum unit and its commands (spec/40_crc.md). -/

namespace Sys2Proof.Machine

/-- One round of R90: the top bit is tested before the shift, and the bit shifted out is discarded. -/
def crcRound (c : BitVec 32) : BitVec 32 := if c.msb then (c <<< 1) ^^^ Config.poly else c <<< 1

/-- `n` rounds of R90. -/
def crcRounds : Nat → BitVec 32 → BitVec 32
  | 0, c => c
  | n + 1, c => crcRounds n (crcRound c)

/-- `crc_step(c, b)` (R90): the byte lands in bits 31:24, then 8 rounds. -/
def crcStep (c : BitVec 32) (b : Byte) : BitVec 32 := crcRounds 8 (c ^^^ (b.setWidth 32 <<< 24))

/-- `k c`, and nothing else (`strictly_eq`, Laws/Crc.lean): the match makes the kernel compute `c` to a numeral before it goes
on, so that a checksum over a long page can be evaluated by it. -/
def strictly {α : Type} (c : BitVec 32) (k : BitVec 32 → α) : α :=
  match c.toNat with
  | 0 => k 0
  | n + 1 => k (BitVec.ofNat 32 (n + 1))

/-- `crc_fold(c, s)` (R91): `crc_fold(c, []) = c`, `crc_fold(c, [b] ++ t) = crc_fold(crc_step(c, b), t)` (`crcFold_cons`). -/
def crcFold (c : BitVec 32) : List Byte → BitVec 32
  | [] => c
  | b :: t => strictly (crcStep c b) fun c' => crcFold c' t

/-- `crc_ogg(s)` (R91). -/
def crcOgg (s : List Byte) : BitVec 32 := crcFold Config.crcInit s

/-- `CRC <- c`, the write shared by the three commands. -/
def setCrc (c : BitVec 32) (s : State) : State := { s with crc := c }

/-- `CRC.CLR` (R93). -/
def execCrcClr (s : State) : Result := .next (unlessFault (setCrc Config.crcInit) s)

/-- `CRC.UPD8 imm8` (R94). -/
def execCrcUpd8 (imm8 : Byte) (s : State) : Result := .next (unlessFault (setCrc (crcStep s.crc imm8)) s)

/-- `CRC.UPD data` (R95). -/
def execCrcUpd (data : List Byte) (s : State) : Result := .next (unlessFault (setCrc (crcFold s.crc data)) s)

end Sys2Proof.Machine
end

