-- ==== Sys2Proof/Syntax.lean ====
section
/-! DEFINITION. The OGGF command set, version 1 (spec/30_encoding.md R60), one constructor per row of spec/opcode_table.json. -/

namespace Sys2Proof

/-- The twelve opcodes of R67. -/
inductive Opcode where
  | nop | rst | rd | crcClr | crcUpd8 | crcUpd | durCalc | strOpen | pktHead | pktTags | pktAud | strFin
  deriving DecidableEq, Repr

/-- A decoded command: operands and the whole payload are in it, copied out of `CMD` before it executes (R61, R62). -/
inductive Instr where
  /-- `NOP` (R140). -/
  | nop
  /-- `RST` (R141). -/
  | rst
  /-- `RD reg` (R142): any byte is a legal operand to the decoder. -/
  | rd (reg : Byte)
  /-- `CRC.CLR` (R93). -/
  | crcClr
  /-- `CRC.UPD8 imm8` (R94). -/
  | crcUpd8 (imm8 : Byte)
  /-- `CRC.UPD data` (R95). -/
  | crcUpd (data : List Byte)
  /-- `DUR.CALC data` (R103). -/
  | durCalc (data : Packet)
  /-- `STR.OPEN serial, preskip, nsamp` (R117); `nsamp` is a two's complement pattern (R66). -/
  | strOpen (serial : BitVec 32) (preskip : BitVec 16) (nsamp : BitVec 32)
  /-- `PKT.HEAD data` (R118). -/
  | pktHead (data : Packet)
  /-- `PKT.TAGS data` (R119). -/
  | pktTags (data : Packet)
  /-- `PKT.AUD data` (R120). -/
  | pktAud (data : Packet)
  /-- `STR.FIN` (R121). -/
  | strFin
  deriving DecidableEq, Repr

/-- The opcode of a command (R67). -/
def Instr.opcode : Instr → Opcode
  | .nop => .nop
  | .rst => .rst
  | .rd _ => .rd
  | .crcClr => .crcClr
  | .crcUpd8 _ => .crcUpd8
  | .crcUpd _ => .crcUpd
  | .durCalc _ => .durCalc
  | .strOpen _ _ _ => .strOpen
  | .pktHead _ => .pktHead
  | .pktTags _ => .pktTags
  | .pktAud _ => .pktAud
  | .strFin => .strFin

/-- The payload of a format B command; the other formats carry none (R63 to R66). -/
def Instr.payload : Instr → List Byte
  | .crcUpd d => d
  | .durCalc d => d
  | .pktHead d => d
  | .pktTags d => d
  | .pktAud d => d
  | .nop => []
  | .rst => []
  | .rd _ => []
  | .crcClr => []
  | .crcUpd8 _ => []
  | .strOpen _ _ _ => []
  | .strFin => []

/-- The pseudo-instructions of R78. -/
inductive Pseudo where
  /-- `CRC.OF data` -/
  | crcOf (data : List Byte)
  /-- `STR.ABORT` -/
  | strAbort
  /-- `PKT.AUDN n, data` -/
  | pktAudN (n : Nat) (data : Packet)
  deriving DecidableEq, Repr

end Sys2Proof
end

