-- ==== Sys2Proof/WellFormed.lean ====
section
/-! DEFINITION. Which commands have an encoding. The one operand that a term can hold and the encoding cannot is a payload
whose length does not fit the 32-bit `len` field (spec/30_encoding.md R65); every other operand has its encoding's width. -/

namespace Sys2Proof

/-- The payload's length is a value of the `len` field, 0 to 2^32 - 1 (R65, D31). -/
def Instr.wellFormed (i : Instr) : Bool := decide (i.payload.length < 2 ^ Config.lenWidth)

end Sys2Proof
end

