-- ==== Sys2Proof/Decode.lean ====
section
/-! DEFINITION. The command decoder and encoder (spec/30_encoding.md R61 to R70) and the expansion of the
pseudo-instructions (R78). -/

namespace Sys2Proof

/-- The opcode byte of each command, from the table of R67. -/
def opcodeByte : Opcode → Byte
  | .nop => 0x00
  | .rst => 0x01
  | .rd => 0x02
  | .crcClr => 0x10
  | .crcUpd8 => 0x11
  | .crcUpd => 0x12
  | .durCalc => 0x18
  | .strOpen => 0x20
  | .pktHead => 0x21
  | .pktTags => 0x22
  | .pktAud => 0x23
  | .strFin => 0x24

/-- The rows of R67, in its order. -/
def opcodeTable : List Opcode :=
  [.nop, .rst, .rd, .crcClr, .crcUpd8, .crcUpd, .durCalc, .strOpen, .pktHead, .pktTags, .pktAud, .strFin]

/-- Look an opcode byte up in R67: all eight bits take part; `none` for the 244 reserved bytes of R68. -/
def opcodeOf (b : Byte) : Option Opcode := opcodeTable.find? fun o => opcodeByte o == b

/-- The decoder's three verdicts over a finite byte list (R61). -/
inductive Verdict where
  /-- A whole command, and the bytes after it. -/
  | command (i : Instr) (rest : List Byte)
  /-- Fewer bytes than the command needs: the decoder waits. -/
  | incomplete
  /-- A reserved opcode byte (R68). -/
  | illegal (op : Byte)
  deriving DecidableEq, Repr

/-- Format Z, after the opcode (R63). -/
def decodeZ (i : Instr) (bytes : List Byte) : Verdict := .command i bytes

/-- Format I, after the opcode (R64): one 8-bit immediate. -/
def decodeI (mk : Byte → Instr) : List Byte → Verdict
  | imm :: rest => .command (mk imm) rest
  | [] => .incomplete

/-- Format B, after the opcode (R65): `len`, 32 bits little-endian, then `len` payload bytes. -/
def decodeB (mk : List Byte → Instr) (bytes : List Byte) : Verdict :=
  let len := leValue (memRead bytes 0 4)
  if bytes.length < 4 + len then .incomplete
  else .command (mk (memRead bytes 4 len)) (bytes.drop (4 + len))

/-- Format O, after the opcode (R66): serial, preskip, nsamp, each little-endian. -/
def decodeO (bytes : List Byte) : Verdict :=
  if bytes.length < 10 then .incomplete
  else
    .command
      (.strOpen (BitVec.ofNat 32 (leValue (memRead bytes 0 4))) (BitVec.ofNat 16 (leValue (memRead bytes 4 2)))
        (BitVec.ofNat 32 (leValue (memRead bytes 6 4))))
      (bytes.drop 10)

/-- The bytes of a command after its opcode, by the opcode's format (R67). -/
def decodeOperands : Opcode → List Byte → Verdict
  | .nop => decodeZ .nop
  | .rst => decodeZ .rst
  | .rd => decodeI .rd
  | .crcClr => decodeZ .crcClr
  | .crcUpd8 => decodeI .crcUpd8
  | .crcUpd => decodeB .crcUpd
  | .durCalc => decodeB .durCalc
  | .strOpen => decodeO
  | .pktHead => decodeB .pktHead
  | .pktTags => decodeB .pktTags
  | .pktAud => decodeB .pktAud
  | .strFin => decodeZ .strFin

/-- One command from the front of `CMD` (R61). Total on any bytes. -/
def decode : List Byte → Verdict
  | [] => .incomplete
  | op :: rest =>
    match opcodeOf op with
    | none => .illegal op
    | some o => decodeOperands o rest

/-- The bytes of format B after the opcode (R65). -/
def encodePayload (data : List Byte) : List Byte := leBytes 4 data.length ++ data

/-- The bytes of a command after its opcode (R63 to R66). -/
def encodeOperands : Instr → List Byte
  | .nop => []
  | .rst => []
  | .rd reg => [reg]
  | .crcClr => []
  | .crcUpd8 imm8 => [imm8]
  | .crcUpd data => encodePayload data
  | .durCalc data => encodePayload data
  | .strOpen serial preskip nsamp => leBytes 4 serial.toNat ++ leBytes 2 preskip.toNat ++ leBytes 4 nsamp.toNat
  | .pktHead data => encodePayload data
  | .pktTags data => encodePayload data
  | .pktAud data => encodePayload data
  | .strFin => []

/-- The bytes of a command (R63 to R66): the opcode byte at offset 0, then its operands. -/
def encode (i : Instr) : List Byte := opcodeByte i.opcode :: encodeOperands i

/-- The length in bytes of a command, the column "length in bytes" of R67. -/
def commandLength (i : Instr) : Nat :=
  match i with
  | .nop => 1
  | .rst => 1
  | .rd _ => 2
  | .crcClr => 1
  | .crcUpd8 _ => 2
  | .crcUpd data => 5 + data.length
  | .durCalc data => 5 + data.length
  | .strOpen _ _ _ => 11
  | .pktHead data => 5 + data.length
  | .pktTags data => 5 + data.length
  | .pktAud data => 5 + data.length
  | .strFin => 1

/-- The expansion of a pseudo-instruction (R78). -/
def expandPseudo : Pseudo → List Instr
  | .crcOf data => [.crcClr, .crcUpd data, .rd 0x04]
  | .strAbort => [.rst]
  | .pktAudN n data => List.replicate n (.pktAud data)

/-- How many bytes a command takes whose opcode byte is `op` and whose `len` field, if it has one, is `len` (R70). -/
def lengthFromHeader (op : Byte) (len : Nat) : Nat :=
  match opcodeOf op with
  | none => 1
  | some .nop => 1
  | some .rst => 1
  | some .rd => 2
  | some .crcClr => 1
  | some .crcUpd8 => 2
  | some .crcUpd => 5 + len
  | some .durCalc => 5 + len
  | some .strOpen => 11
  | some .pktHead => 5 + len
  | some .pktTags => 5 + len
  | some .pktAud => 5 + len
  | some .strFin => 1

/-- A command given as a number, numbered as the opcode table numbers bits: bit 0 is the least significant bit of the first
byte, and the bits above `nbits` are 0. Its bytes in stream order, as many as the command has. -/
def tableBytes (nbits w : Nat) : List Byte :=
  let v := w % 2 ^ nbits
  leBytes (lengthFromHeader (BitVec.ofNat 8 v) (v / 256 % 2 ^ 32)) v

/-- The command the decoder reads from an opcode-table word; `none` where it refuses. -/
def decodeTableWord (nbits w : Nat) : Option Instr :=
  match decode (tableBytes nbits w) with
  | .command i _ => some i
  | .incomplete => none
  | .illegal _ => none

end Sys2Proof
end

