-- ==== Sys2Proof/Machine/Duration.lean ====
section
/-! DEFINITION. The packet-duration unit and `DUR.CALC` (spec/41_duration.md). Counts are natural numbers, as R104 allows. -/

namespace Sys2Proof.Machine

/-- `code`: the low 2 bits of byte 0 (R76). -/
def tocCode (b0 : Byte) : Nat := (b0.extractLsb' 0 2).toNat

/-- `class`: bits 4:3 of byte 0 (R76). -/
def tocClass (b0 : Byte) : Nat := (b0.extractLsb' 3 2).toNat

/-- `nb_frames(p)` (R100); `none` is `MalformedOpusPacket`. -/
def nbFrames : Packet → Option Nat
  | [] => none
  | b0 :: rest =>
    if tocCode b0 = 0 then some 1
    else if tocCode b0 = 1 ∨ tocCode b0 = 2 then some 2
    else
      match rest with
      | [] => none
      | b1 :: _ => some (b1.extractLsb' 0 6).toNat

/-- `samples_per_frame(b0, fs)` (R101), truncating division. -/
def samplesPerFrame (b0 : Byte) (fs : Nat) : Nat :=
  if b0.getLsbD 7 then (fs <<< tocClass b0) / 400
  else if b0.extractLsb' 5 2 = 3 then (if b0.getLsbD 3 then fs / 50 else fs / 100)
  else if tocClass b0 = 3 then fs * 60 / 1000
  else (fs <<< tocClass b0) / 100

/-- `nb_samples(p)` (R102): `MalformedOpusPacket` is tested first, then `PacketTooLong`. -/
def nbSamples (p : Packet) : Except FaultCode Duration :=
  match nbFrames p with
  | none => .error .malformedOpusPacket
  | some nf =>
    let spf := samplesPerFrame (p.headD 0) Config.fs
    let n := nf * spf
    if Config.fs * 3 < n * 25 then .error .packetTooLong else .ok { nf := nf, spf := spf, n := n }

/-- `NBF`, `SPF` and `NSMP` take the results of a measurement (R26). -/
def setDuration (d : Duration) (s : State) : State :=
  { s with nbf := BitVec.ofNat 8 d.nf, spf := BitVec.ofNat 16 d.spf, nsmp := BitVec.ofNat 32 d.n }

/-- `DUR.CALC data` (R103): its faults carry `PKTIDX` (R150). -/
def execDurCalc (data : Packet) (s : State) : Result :=
  .next (unlessFault (fun s =>
    match nbSamples data with
    | .error f => raise f s.pktidx (opcodeByte .durCalc) s
    | .ok d => setDuration d s) s)

end Sys2Proof.Machine
end

