-- ==== Sys2Proof/Machine/Framer.lean ====
section
/-! DEFINITION. Lacing (spec/30_encoding.md R74), the page layout (R71), the page framer's procedures and the stream
commands (spec/42_framer.md). -/

namespace Sys2Proof.Machine

/-- `Segs(L)` (R74). -/
def segs (len : Nat) : Nat := len / Config.segMax + 1

/-- `Lace(L)` (R74). -/
def lace (len : Nat) : List Byte :=
  List.replicate (len / Config.segMax) 0xFF ++ [BitVec.ofNat 8 (len % Config.segMax)]

/-- `AppendPacket(p)` (R110). -/
def appendPacket (p : Packet) (s : State) : State :=
  { s with segtab := memWrite s.segtab s.segcnt (lace p.length), payload := memWrite s.payload s.paylen p }

/-- The capture pattern "OggS" (R46). PRESUMED by the spec itself, K3 (log 10). -/
def capturePattern : List Byte := [0x4F, 0x67, 0x67, 0x53]

/-- Where the checksum field lies in a page (R71). -/
def checksumOffset : Nat := 22

/-- The layout of a page (R71), `header ++ segment_table ++ payload`. -/
def pageImage (flags : Byte) (granule : BitVec 64) (serial seq crc : BitVec 32) (table payload : List Byte) : List Byte :=
  capturePattern ++ [0x00] ++ [flags] ++ leBytes 8 granule.toNat ++ leBytes 4 serial.toNat ++ leBytes 4 seq.toNat
    ++ leBytes 4 crc.toNat ++ [BitVec.ofNat 8 table.length] ++ table ++ payload

/-- `Serialise(flags, granule)` (R111): the pending page with a zero checksum field. -/
def serialise (flags : Byte) (granule : BitVec 64) (s : State) : List Byte :=
  pageImage flags granule s.serial s.seq 0 s.segtab s.payload

/-- The in-place patch of R112: the checksum of the whole image, written little-endian at offset 22. -/
def patchChecksum (image : List Byte) : List Byte :=
  memWrite image checksumOffset (leBytes 4 (crcOgg image).toNat)

/-- `EmitPage(flags, granule)` (R112). -/
def emitPage (flags : Byte) (granule : BitVec 64) (s : State) : State :=
  let image := serialise flags granule s
  { s with
    crc := crcOgg image
    out := memWrite s.out s.outlen (patchChecksum image)
    seq := s.seq + 1
    segtab := []
    payload := [] }

/-- `PageFits` (R112). -/
def pageFits (s : State) : Bool := outFits (Config.hdrLen + s.segcnt + s.paylen) s

/-- Emit the pending page: at granule 0 while it is the tags page, at `granule` otherwise; it is then no longer pending (R113, R120, R121). -/
def emitPending (flags : Byte) (granule : BitVec 64) (s : State) : State :=
  { emitPage flags (if s.tagpend then 0 else granule) s with tagpend := false }

/-- `PHASE <- p` (R8). -/
def setPhase (p : Phase) (s : State) : State := { s with phase := p }

/-- The writes of `STR.OPEN` (R117, R182). -/
def openStream (serial : BitVec 32) (preskip : BitVec 16) (nsamp : BitVec 32) (s : State) : State :=
  { s with
    serial := serial
    preskip := preskip
    nsamp := nsamp
    finalv := countKnown nsamp
    final := finalGranule preskip nsamp
    seq := 0
    gran := 0
    pktidx := 0
    segtab := []
    payload := []
    tagpend := false
    out := []
    phase := .head }

/-- `STR.OPEN serial, preskip, nsamp` (R117). -/
def execStrOpen (serial : BitVec 32) (preskip : BitVec 16) (nsamp : BitVec 32) (s : State) : Result :=
  .next (unlessFault (fun s =>
    if s.phase ≠ .idle ∧ s.phase ≠ .done then raiseSequence (opcodeByte .strOpen) s
    else openStream serial preskip nsamp s) s)

/-- `PKT.HEAD data` (R118). -/
def execPktHead (data : Packet) (s : State) : Result :=
  .next (unlessFault (fun s =>
    if s.phase ≠ .head then raiseSequence (opcodeByte .pktHead) s
    else if Config.maxSegs < segs data.length then raise .tooManySegments s.pktidx (opcodeByte .pktHead) s
    else if ¬ outFits (Config.hdrLen + segs data.length + data.length) s then
      raise .outputOverflow s.seq (opcodeByte .pktHead) s
    else setPhase .tags (emitPage pageFlagsBos 0 (appendPacket data s))) s)

/-- `TAGPEND <- 1` (R119). -/
def holdTagsPage (s : State) : State := { s with tagpend := true }

/-- `PKT.TAGS data` (R119). -/
def execPktTags (data : Packet) (s : State) : Result :=
  .next (unlessFault (fun s =>
    if s.phase ≠ .tags then raiseSequence (opcodeByte .pktTags) s
    else if Config.maxSegs < segs data.length then raise .tooManySegments s.pktidx (opcodeByte .pktTags) s
    else setPhase .audio (holdTagsPage (appendPacket data s))) s)

/-- `flush` of R120: the pending page is the tags page, or the packet does not fit it (R114). -/
def mustFlush (data : Packet) (s : State) : Bool :=
  s.tagpend || decide (Config.maxSegs < s.segcnt + segs data.length)

/-- `GRAN` and `PKTIDX` advance by the packet placed (R19, R25). -/
def countPacket (n : Nat) (s : State) : State :=
  { s with gran := s.gran + BitVec.ofNat 64 n, pktidx := s.pktidx + 1 }

/-- `PKT.AUD` below the line where no fault can occur (R120): measure, flush, place, count. -/
def placeAudio (d : Duration) (data : Packet) (s : State) : State :=
  let measured := setDuration d s
  let flushed := if mustFlush data s then emitPending pageFlagsNone s.gran measured else measured
  countPacket d.n (appendPacket data flushed)

/-- `PKT.AUD data` (R120). -/
def execPktAud (data : Packet) (s : State) : Result :=
  .next (unlessFault (fun s =>
    if s.phase ≠ .audio then raiseSequence (opcodeByte .pktAud) s
    else if Config.maxSegs < segs data.length then raise .tooManySegments s.pktidx (opcodeByte .pktAud) s
    else
      match nbSamples data with
      | .error f => raise f s.pktidx (opcodeByte .pktAud) s
      | .ok d =>
        if mustFlush data s ∧ ¬ pageFits s then raise .outputOverflow s.seq (opcodeByte .pktAud) s
        else placeAudio d data s) s)

/-- The granule position of the last audio page (R113, R121). -/
def lastGranule (s : State) : BitVec 64 := if s.finalv then s.final else s.gran

/-- `STR.FIN` (R121). -/
def execStrFin (s : State) : Result :=
  .next (unlessFault (fun s =>
    if s.phase ≠ .audio then raiseSequence (opcodeByte .strFin) s
    else if ¬ pageFits s then raise .outputOverflow s.seq (opcodeByte .strFin) s
    else setPhase .done (emitPending pageFlagsEos (lastGranule s) s)) s)

end Sys2Proof.Machine
end

