-- ==== Sys2Proof/Machine/System.lean ====
section
/-! DEFINITION. The system commands `NOP`, `RST`, `RD` (spec/43_system.md). -/

namespace Sys2Proof.Machine

/-- `NOP` (R140): no state changes, in every phase. -/
def execNop (s : State) : Result := .next s

/-- `RST` (R141), in every phase. -/
def execRst (s : State) : Result := .next (softReset s)

/-- `RD reg` (R142): one response, in every phase; a reserved number raises `IllegalRegister` with `zext_32(reg)` (R150,
R156), and is dropped in phase `FAULT` (R162). -/
def execRd (reg : Byte) (s : State) : Result :=
  match readReg reg s with
  | some v => .next (respond v s)
  | none => .next (unlessFault (raise .illegalRegister (reg.setWidth 32) (opcodeByte .rd)) s)

end Sys2Proof.Machine
end

