-- ==== Sys2Proof/Machine/Dispatch.lean ====
section
/-! DEFINITION. One command, executed as one atomic step (spec/30_encoding.md R62). -/

namespace Sys2Proof.Machine

def exec (i : Instr) (s : State) : Host.Outcome State Fault Refusal :=
  match i with
  | .nop => Sys2Proof.Machine.execNop s
  | .rst => Sys2Proof.Machine.execRst s
  | .rd reg => Sys2Proof.Machine.execRd reg s
  | .crcClr => Sys2Proof.Machine.execCrcClr s
  | .crcUpd8 imm8 => Sys2Proof.Machine.execCrcUpd8 imm8 s
  | .crcUpd data => Sys2Proof.Machine.execCrcUpd data s
  | .durCalc data => Sys2Proof.Machine.execDurCalc data s
  | .strOpen serial preskip nsamp => Sys2Proof.Machine.execStrOpen serial preskip nsamp s
  | .pktHead data => Sys2Proof.Machine.execPktHead data s
  | .pktTags data => Sys2Proof.Machine.execPktTags data s
  | .pktAud data => Sys2Proof.Machine.execPktAud data s
  | .strFin => Sys2Proof.Machine.execStrFin s

end Sys2Proof.Machine
end

