-- ==== Sys2Proof/Machine/Fetch.lean ====
section
/-! DEFINITION. Taking a command from `CMD` (spec/30_encoding.md R61, spec/60_exceptions.md R155). -/

namespace Sys2Proof.Machine

/-- The decoder's verdict on `CMD`. A desynchronised decoder takes no byte and never finds a command (R28). -/
def fetchCommand (s : State) : Verdict := if s.desync then .incomplete else decode s.cmd

/-- A command is taken from `CMD` exactly once (R55): `rest` is what stays. -/
def takeCommand (rest : List Byte) (s : State) : State := { s with cmd := rest }

/-- A reserved opcode byte: the decoder consumes that byte only, raises `IllegalCommand` and stops (R68, R155). -/
def takeIllegal (op : Byte) (s : State) : State := raiseIllegalCommand op (takeCommand s.cmd.tail s)

/-- No command to execute: the state does not change (R61, R175). DESIGN CHOICE (log 5): the waiting step is a next state. -/
def waitForCommand (s : State) : State := s

/-- An opcode-table word placed where the decoder takes its next command: its bytes at the front of `CMD`, and the decoder
running. It stands for the host sending those bytes (log 8). -/
def placeCommand (nbits w : Nat) (s : State) : State :=
  { s with cmd := tableBytes nbits w ++ s.cmd, desync := false }

end Sys2Proof.Machine
end

