-- ==== Sys2Proof/Machine/Step.lean ====
section
/-! DEFINITION. One step of the block (spec/30_encoding.md R61, R62). -/

namespace Sys2Proof.Machine

/-- One step: a whole command is executed; a reserved opcode stops the decoder; otherwise the block waits. -/
def step (s : State) : Host.Outcome State Fault Refusal :=
  match fetchCommand s with
  | .command i rest => exec i (takeCommand rest s)
  | .illegal op => .next (takeIllegal op s)
  | .incomplete => .next (waitForCommand s)

/-- `s` with an opcode-table word where `step` takes its next command. -/
def State.withFetchWord (s : State) (nbits w : Nat) : State := placeCommand nbits w s

end Sys2Proof.Machine
end

