-- ==== Sys2Proof/Machine/Pages.lean ====
section
/-! DEFINITION. Reading a stream back: `Unlace` (spec/30_encoding.md R75), the fields of a page by their offsets (R71), and
splitting `OUT` into pages (spec/42_framer.md R123). -/

namespace Sys2Proof.Machine

/-- `Unlace(T, P)` of R75 with `acc` bytes of the current packet already counted. -/
def unlaceFrom (acc : Nat) : List Byte → List Byte → List Packet
  | [], _ => []
  | v :: t, p =>
    if v.toNat < Config.segMax then p.take (acc + v.toNat) :: unlaceFrom 0 t (p.drop (acc + v.toNat))
    else unlaceFrom (acc + v.toNat) t p

/-- `Unlace(T, P)` (R75). -/
def unlace (table payload : List Byte) : List Packet := unlaceFrom 0 table payload

/-- The sum of a segment table. -/
def tableSum (table : List Byte) : Nat := (table.map BitVec.toNat).sum

/-- The flags byte of a page, offset 5 (R71). -/
def pageFlags (page : List Byte) : Byte := page.getD 5 0

/-- The granule position of a page, offset 6 (R71). -/
def pageGranule (page : List Byte) : Nat := leValue (memRead page 6 8)

/-- The stream serial of a page, offset 14 (R71). -/
def pageSerial (page : List Byte) : Nat := leValue (memRead page 14 4)

/-- The sequence number of a page, offset 18 (R71). -/
def pageSeq (page : List Byte) : Nat := leValue (memRead page 18 4)

/-- The checksum of a page, offset 22 (R71). -/
def pageCrc (page : List Byte) : Nat := leValue (memRead page checksumOffset 4)

/-- The segment count of a page, offset 26 (R71). -/
def pageSegCount (page : List Byte) : Nat := (page.getD 26 0).toNat

/-- The segment table of a page, offset 27 (R71). -/
def pageTable (page : List Byte) : List Byte := memRead page Config.hdrLen (pageSegCount page)

/-- The payload of a page (R71). -/
def pagePayload (page : List Byte) : List Byte := page.drop (Config.hdrLen + pageSegCount page)

/-- The packets of a page (R123). -/
def pagePackets (page : List Byte) : List Packet := unlace (pageTable page) (pagePayload page)

/-- The length of the page at the front of `bytes`: "27 plus byte 26 plus the sum of the segment table" (R123). -/
def pageLength (bytes : List Byte) : Nat := Config.hdrLen + pageSegCount bytes + tableSum (pageTable bytes)

/-- Cut `bytes` into pages, at most `fuel` of them; `none` when they do not split. -/
def splitPages : Nat → List Byte → Option (List (List Byte))
  | _, [] => some []
  | 0, _ :: _ => none
  | fuel + 1, b :: bs =>
    let bytes := b :: bs
    if bytes.length < Config.hdrLen ∨ bytes.length < pageLength bytes then none
    else (splitPages fuel (bytes.drop (pageLength bytes))).map fun rest => bytes.take (pageLength bytes) :: rest

/-- The pages of a stream, in order (R123); a page is never empty, so a stream has no more pages than bytes. -/
def pagesOf (bytes : List Byte) : Option (List (List Byte)) := splitPages bytes.length bytes

/-- R122: with bytes 22 to 25 replaced by zeros, `crc_ogg` of the page equals `le` of the original bytes 22 to 25. -/
def pageVerifies (page : List Byte) : Bool :=
  (crcOgg (memWrite page checksumOffset [0, 0, 0, 0])).toNat == pageCrc page

/-- All packets of a list of pages, in page order (R123). -/
def packetsOf (pages : List (List Byte)) : List Packet := pages.flatMap pagePackets

/-- The sample count of a packet (R102); 0 for a packet that the duration unit refuses. -/
def packetSamples (p : Packet) : Nat :=
  match nbSamples p with
  | .ok d => d.n
  | .error _ => 0

/-- The samples of a list of packets. -/
def totalSamples (ps : List Packet) : Nat := (ps.map packetSamples).sum

end Sys2Proof.Machine
end

