-- ==== Sys2Proof/Machine/Batch.lean ====
section
/-! DEFINITION. The source document's batch muxer, steps 3 and 5 to 9, as spec/42_framer.md quotes them (R111 to R116): all
packets at once, no pending page. It is what the command sequence of R116 is compared with. -/

namespace Sys2Proof.Machine

/-- The segments a list of packets needs (R74, R124). -/
def segsOf (ps : List Packet) : Nat := (ps.map fun p => segs p.length).sum

/-- "greedily pack consecutive packets into a page while the cumulative ... segment count ... does not exceed 255; start a
new page otherwise" (R114); `page` is the page being filled. -/
def packPages (page : List Packet) : List Packet → List (List Packet)
  | [] => [page]
  | p :: ps => if segsOf page + segs p.length ≤ Config.maxSegs then packPages (page ++ [p]) ps else page :: packPages [p] ps

/-- The audio pages of a stream (R114): none when there are no audio packets. -/
def audioPages : List Packet → List (List Packet)
  | [] => []
  | p :: ps => packPages [p] ps

/-- One page of the stream `serial` with its checksum in place (R71, R112). -/
def sealedPage (serial : BitVec 32) (flags : Byte) (granule seq : Nat) (ps : List Packet) : List Byte :=
  patchChecksum
    (pageImage flags (BitVec.ofNat 64 granule) serial (BitVec.ofNat 32 seq) 0 (ps.flatMap fun p => lace p.length) ps.flatten)

/-- The audio pages' bytes (R113, R115): `samples` is the running accumulator before them, `seq` the first one's sequence
number; the last page alone has the end-of-stream flag and, when it is known, the final granule position. -/
def audioBytes (serial : BitVec 32) (finalKnown : Option Nat) : Nat → Nat → List (List Packet) → List Byte
  | _, _, [] => []
  | seq, samples, [ps] =>
    sealedPage serial pageFlagsEos (finalKnown.getD (samples + totalSamples ps)) seq ps
  | seq, samples, ps :: q :: rest =>
    sealedPage serial pageFlagsNone (samples + totalSamples ps) seq ps
      ++ audioBytes serial finalKnown (seq + 1) (samples + totalSamples ps) (q :: rest)

/-- "if playable sample count is known, it is `pre_skip + playable_num_samples`" (R20). -/
def finalPosition (preskip : BitVec 16) (nsamp : BitVec 32) : Option Nat :=
  if 0 < nsamp.toInt then some (preskip.toNat + nsamp.toNat) else none

/-- `mux(meta) -> bytes` (R116): page 0, page 1, then the audio pages. -/
def muxBatch (serial : BitVec 32) (preskip : BitVec 16) (nsamp : BitVec 32) (h t : Packet) (ps : List Packet) : List Byte :=
  sealedPage serial pageFlagsBos 0 0 [h]
    ++ sealedPage serial (if ps.isEmpty then pageFlagsEos else pageFlagsNone) 0 1 [t]
    ++ audioBytes serial (finalPosition preskip nsamp) 2 0 (audioPages ps)

/-- The command sequence of R116. -/
def streamCommands (serial : BitVec 32) (preskip : BitVec 16) (nsamp : BitVec 32) (h t : Packet) (ps : List Packet) :
    List Instr :=
  [.strOpen serial preskip nsamp, .pktHead h, .pktTags t] ++ ps.map .pktAud ++ [.strFin]

end Sys2Proof.Machine
end

