-- ==== Sys2Proof/Machine/HostPort.lean ====
section
/-! DEFINITION. What the host can do to the block between steps (spec/00_scope.md R3): send bytes, take responses, read the
finished output, reset. -/

namespace Sys2Proof.Machine

/-- The host sends bytes on `CMD` (R61). -/
def State.send (bytes : List Byte) (s : State) : State := { s with cmd := s.cmd ++ bytes }

/-- The oldest response not taken, if there is one (R40). -/
def State.response (s : State) : Option (BitVec 64) := s.rsp.head?

/-- The host takes the oldest response (R40, R49). -/
def State.takeResponse (s : State) : State := { s with rsp := s.rsp.tail }

/-- The host's read of `OUT`: the finished stream exactly in phase `DONE`, nothing in any other (R43). -/
def State.readOut (s : State) : Option (List Byte) := if s.phase = .done then some s.out else none

/-- Hardware reset (R180): every register zero, the bytes of `CMD` not yet executed discarded. The words already sent on
`RSP` stay: DESIGN CHOICE, unsafe (log 7). -/
def State.hardReset (s : State) : State := { State.resetWith s.outCap with rsp := s.rsp }

/-- What can happen to the block: a step of its own, or an act of the host (R3). -/
inductive Event where
  | step
  | send (bytes : List Byte)
  | takeResponse
  | hardReset
  deriving DecidableEq, Repr

/-- The outcome of an event. -/
def eventOutcome (e : Event) (s : State) : Result :=
  match e with
  | .step => step s
  | .send bytes => .next (s.send bytes)
  | .takeResponse => .next s.takeResponse
  | .hardReset => .next s.hardReset

/-- The command list executed in order, each complete before the next (R52). -/
def execAll : List Instr → State → Result
  | [], s => .next s
  | i :: is, s =>
    match exec i s with
    | .next s' => execAll is s'
    | .fault r => .fault r
    | .refused r => .refused r

end Sys2Proof.Machine
end

