-- ==== Sys2Proof/Safety.lean ====
section
/-! DEFINITION. What claims about OGGF speak of: the ends of a run (spec/70_reset_and_hazards.md R192), the phase table
(spec/10_state.md R15), and the invariants of the block and of its output stream (R30, spec/42_framer.md R122 to R126). -/

namespace Sys2Proof.Machine

/-- The good end of a run (R192): `OUT` is the stream. -/
def goodEnd (s : State) : Bool := s.phase == .done

/-- The bad end of a run (R192): `OUT` is empty and `ERR` names the cause. -/
def badEnd (s : State) : Bool := s.phase == .fault

/-- The decoder has bytes of a command that is not complete: a stall, which is no end of a run (R190, U12). -/
def stalled (s : State) : Bool := !s.cmd.isEmpty && fetchCommand s == .incomplete

/-- A phase in which a stream may be opened (R117). -/
def readyForStream (p : Phase) : Bool := p == .idle || p == .done

/-- A phase in which a stream is open or finished, R30 (h). -/
def streamPhase (p : Phase) : Bool := p == .head || p == .tags || p == .audio || p == .done

/-- A cell of R15's table. -/
inductive PhaseCell where
  /-- The command leads to this phase, unless it raises one of its own faults. -/
  | leadsTo (p : Phase)
  /-- `Seq`: the command raises `SequenceError`. -/
  | sequenceError
  /-- `drop`: the command is discarded with no effect at all. -/
  | drop
  deriving DecidableEq, Repr

/-- R15's table, complete. -/
def phaseTable : Opcode → Phase → PhaseCell
  | .nop, p => .leadsTo p
  | .rst, _ => .leadsTo .idle
  | .rd, p => .leadsTo p
  | _, .fault => .drop
  | .crcClr, p => .leadsTo p
  | .crcUpd8, p => .leadsTo p
  | .crcUpd, p => .leadsTo p
  | .durCalc, p => .leadsTo p
  | .strOpen, .idle => .leadsTo .head
  | .strOpen, .done => .leadsTo .head
  | .strOpen, _ => .sequenceError
  | .pktHead, .head => .leadsTo .tags
  | .pktHead, _ => .sequenceError
  | .pktTags, .tags => .leadsTo .audio
  | .pktTags, _ => .sequenceError
  | .pktAud, .audio => .leadsTo .audio
  | .pktAud, _ => .sequenceError
  | .strFin, .audio => .leadsTo .done
  | .strFin, _ => .sequenceError

/-- The column "raised by" of R150, for the faults that a command raises; `IllegalCommand` is the decoder's. -/
def mayRaise : FaultCode → Opcode → Bool
  | .malformedOpusPacket, .pktAud | .malformedOpusPacket, .durCalc => true
  | .packetTooLong, .pktAud | .packetTooLong, .durCalc => true
  | .tooManySegments, .pktHead | .tooManySegments, .pktTags | .tooManySegments, .pktAud => true
  | .sequenceError, .strOpen | .sequenceError, .pktHead | .sequenceError, .pktTags => true
  | .sequenceError, .pktAud | .sequenceError, .strFin => true
  | .illegalRegister, .rd => true
  | .outputOverflow, .pktHead | .outputOverflow, .pktAud | .outputOverflow, .strFin => true
  | _, _ => false

/-- The column `ERRINFO` of R150: what the fault of command `i` in state `s` records. -/
def faultInfo (f : FaultCode) (i : Instr) (s : State) : BitVec 32 :=
  match f with
  | .malformedOpusPacket => s.pktidx
  | .packetTooLong => s.pktidx
  | .tooManySegments => s.pktidx
  | .sequenceError => BitVec.ofNat 32 (phaseCode s.phase).toNat
  | .illegalCommand => 0
  | .illegalRegister =>
    match i with
    | .rd reg => BitVec.ofNat 32 reg.toNat
    | _ => 0
  | .outputOverflow => s.seq

/-- R12's column "written by": the commands, other than `RST` and those that fault, that may write each register. -/
def mayWriteCrc : Opcode → Bool
  | .crcClr | .crcUpd8 | .crcUpd | .pktHead | .pktAud | .strFin => true
  | _ => false

/-- `NBF`, `SPF`, `NSMP` (R12, R187). -/
def mayWriteDuration : Opcode → Bool
  | .durCalc | .pktAud => true
  | _ => false

/-- `SEQ` (R12): written by `STR.OPEN` and by every page emission. -/
def mayWriteSeq : Opcode → Bool
  | .strOpen | .pktHead | .pktAud | .strFin => true
  | _ => false

/-- `GRAN` and `PKTIDX` (R12). -/
def mayWriteCounts : Opcode → Bool
  | .strOpen | .pktAud => true
  | _ => false

/-- `SEGCNT` and `PAYLEN`, with `SEGTAB` and `PAYLOAD` (R12). -/
def mayWritePending : Opcode → Bool
  | .strOpen | .pktHead | .pktTags | .pktAud | .strFin => true
  | _ => false

/-- A page with its checksum in place: the layout of R71, its checksum field the checksum of the same page with a zero field (R112). -/
def finishedPage (flags : Byte) (granule : BitVec 64) (serial seq : BitVec 32) (table payload : List Byte) : List Byte :=
  pageImage flags granule serial seq (crcOgg (pageImage flags granule serial seq 0 table payload)) table payload

/-- The values `SPF` may hold (R26). -/
def spfValues : List Nat := [0, 120, 240, 480, 960, 1920, 2880]

/-- The invariants of R30 but (h), with R20, R25, R26, R29, R42 and R155: what holds of the block's registers in every reachable state. -/
structure BlockInv (s : State) : Prop where
  /-- R30 (a). -/
  segcnt_le : s.segcnt ≤ Config.maxSegs
  /-- R30 (b). -/
  paylen_eq : s.paylen = tableSum s.segtab
  /-- R30 (c). -/
  no_packet : (s.segcnt = 0 ↔ unlace s.segtab s.payload = []) ∧ (s.segcnt = 0 → s.paylen = 0)
  /-- R30 (d): no packet is left open at the end of the pending page. -/
  closed : ∀ v, s.segtab.getLast? = some v → v.toNat < Config.segMax
  /-- R30 (e). -/
  resting : s.phase = .idle ∨ s.phase = .head ∨ s.phase = .tags ∨ s.phase = .done → s.segcnt = 0 ∧ s.tagpend = false
  /-- R30 (f). -/
  pending : s.phase = .audio → 1 ≤ s.segcnt
  /-- R30 (g), C9. -/
  tags_held : s.tagpend = true → s.pktidx = 0 ∧ (s.phase = .audio ∨ s.phase = .fault)
  /-- R25: no audio packet is accepted before phase `AUDIO`; R30 (g) rests on it when `PKT.TAGS` sets `TAGPEND`. -/
  none_counted : s.phase = .head ∨ s.phase = .tags → s.pktidx = 0
  /-- R30 (i). -/
  fault_recorded : s.err = 0 ↔ s.phase ≠ .fault
  /-- R30 (j), and R43 for `IDLE`. -/
  no_output : s.phase = .fault ∨ s.phase = .idle → s.out = []
  /-- `DESYNC` is set by `IllegalCommand` only, which enters phase `FAULT` (R28, R155). -/
  desync_faulted : s.desync = true → s.phase = .fault
  /-- `OUT` is within `OUT_CAP` (R42). -/
  out_fits : fitsSize s.outlen s.outCap = true
  /-- R20. -/
  final_known : s.finalv = countKnown s.nsamp ∧ s.final = finalGranule s.preskip s.nsamp
  /-- R26. -/
  durations : s.nbf.toNat ≤ 63 ∧ s.spf.toNat ∈ spfValues ∧ s.nsmp.toNat ≤ Config.maxDur ∧ s.nsmp.toNat = s.nbf.toNat * s.spf.toNat

/-- `OUT` splits into pages (R123), as many as R30 (h) says: `SEQ` of them since `STR.OPEN`, none in `HEAD`, one in `TAGS`
and while the tags page is held, at least two later (R115). -/
def PagesInv (s : State) : Prop :=
  ∃ pages, pagesOf s.out = some pages ∧
    (streamPhase s.phase = true → s.seq = BitVec.ofNat 32 pages.length) ∧
    (s.phase = .head → pages.length = 0) ∧
    (s.phase = .tags ∨ (s.phase = .audio ∧ s.tagpend = true) → pages.length = 1) ∧
    (s.phase = .done ∨ (s.phase = .audio ∧ s.tagpend = false) → 2 ≤ pages.length)

/-- R122: every page in `OUT` verifies. -/
def ChecksumInv (s : State) : Prop :=
  ∃ pages, pagesOf s.out = some pages ∧ ∀ page ∈ pages, pageVerifies page = true

/-- R124: every page has 1 to 255 segments, as many as its packets need. -/
def LacingInv (s : State) : Prop :=
  ∃ pages, pagesOf s.out = some pages ∧
    ∀ page ∈ pages, 1 ≤ pageSegCount page ∧ pageSegCount page = segsOf (pagePackets page)

/-- R126: page `k` carries `k mod 2^32` and the serial; exactly page 0 has flag 0x02, exactly the last page of a finished
stream has 0x04, every other flags byte is 0. -/
def SequenceInv (s : State) : Prop :=
  ∃ pages, pagesOf s.out = some pages ∧
    ∀ k page, pages[k]? = some page →
      pageSeq page = k % 2 ^ 32 ∧ pageSerial page = s.serial.toNat ∧
        pageFlags page =
          if k = 0 then 0x02 else if s.phase = .done ∧ k + 1 = pages.length then 0x04 else 0x00

/-- R125 and R19, modulo the wrap of `GRAN`: pages 0 and 1 carry 0; an audio page carries the samples of all audio packets
up to it, but for the last page of a finished stream whose final granule position is known, which carries that; `GRAN` is
the samples of every audio packet placed so far, those of the pending page with them. -/
def GranuleInv (s : State) : Prop :=
  ∃ pages, pagesOf s.out = some pages ∧
    (∀ k page, pages[k]? = some page → k < 2 → pageGranule page = 0) ∧
    (∀ k page, pages[k]? = some page → 2 ≤ k →
      pageGranule page =
        if s.phase = .done ∧ s.finalv = true ∧ k + 1 = pages.length then s.final.toNat
        else totalSamples (packetsOf ((pages.take (k + 1)).drop 2)) % 2 ^ 64) ∧
    (streamPhase s.phase = true →
      s.gran.toNat =
        (totalSamples (packetsOf (pages.drop 2))
          + (if s.tagpend then 0 else totalSamples (unlace s.segtab s.payload))) % 2 ^ 64)

/-- All invariants of the output stream. -/
def StreamInv (s : State) : Prop := PagesInv s ∧ ChecksumInv s ∧ LacingInv s ∧ SequenceInv s ∧ GranuleInv s

/-- The states some sequence of events leads to from the reset of an instance of capacity `cap`. -/
inductive Reachable (cap : Option Nat) : State → Prop where
  | reset : Reachable cap (State.resetWith cap)
  | event (e : Event) (s t : State) : Reachable cap s → eventOutcome e s = .next t → Reachable cap t

end Sys2Proof.Machine
end

