-- ==== Sys2Proof/Certificates/Slice0/Obligations.lean ====
section
/-! DEFINITION. The statements about OGGF for the provers. Each docstring names the rules of spec/ it formalises. A statement
over all states also holds in states no run reaches, unless a premise names an invariant of Sys2Proof/Safety.lean. -/

open Sys2Proof Sys2Proof.Machine

/-! ### The command stream -/

/-- R63 to R67, R69: decoding an encoded command gives it back, with every operand at every value, and leaves the bytes after it. -/
def Obligations.DecodeOfEncode : Prop :=
  ∀ (i : Instr) (rest : List Byte), i.wellFormed = true → decode (encode i ++ rest) = .command i rest

/-- R61, R69: the only bytes the decoder reads as a command are that command's encoding. -/
def Obligations.DecodedCommandIsItsEncoding : Prop :=
  ∀ (bytes : List Byte) (i : Instr) (rest : List Byte),
    decode bytes = .command i rest → i.wellFormed = true ∧ bytes = encode i ++ rest

/-- R68: the reserved opcode bytes are exactly those the rule lists, whatever follows, and no operand of `RD` is refused by the decoder. -/
def Obligations.ReservedOpcodesAreIllegal : Prop :=
  ∀ (op : Byte) (rest : List Byte),
    (decode (op :: rest) = .illegal op ↔
      (0x03 ≤ op.toNat ∧ op.toNat ≤ 0x0F) ∨ (0x13 ≤ op.toNat ∧ op.toNat ≤ 0x17) ∨
        (0x19 ≤ op.toNat ∧ op.toNat ≤ 0x1F) ∨ 0x25 ≤ op.toNat) ∧
    (∀ other, decode (op :: rest) = .illegal other → other = op) ∧
    (∀ reg, decode (0x02 :: reg :: rest) = .command (.rd reg) rest)

/-- R61, U12: fewer bytes than a command needs are no command and no fault, and the block's state does not change. -/
def Obligations.IncompleteCommandHasNoEffect : Prop :=
  ∀ (i : Instr) (sent missing : List Byte),
    i.wellFormed = true → encode i = sent ++ missing → missing ≠ [] →
      decode sent = .incomplete ∧ ∀ s : State, s.cmd = sent → step s = .next s

/-- R70: a command's length is fixed by its opcode, and by `len`, bytes 1 to 4, for format B, whose payload has that length;
the decoder is the same in every phase. -/
def Obligations.CommandLengthsAreFixed : Prop :=
  (∀ (bytes : List Byte) (i : Instr) (rest : List Byte), decode bytes = .command i rest →
    let len := leValue (memRead bytes 1 4)
    bytes.head? = some (opcodeByte i.opcode) ∧
    (bytes.length = rest.length +
      match i.opcode with
      | .nop | .rst | .crcClr | .strFin => 1
      | .rd | .crcUpd8 => 2
      | .strOpen => 11
      | .crcUpd | .durCalc | .pktHead | .pktTags | .pktAud => 5 + len) ∧
    (i.opcode ∈ [.crcUpd, .durCalc, .pktHead, .pktTags, .pktAud] → i.payload = memRead bytes 5 len ∧ i.payload.length = len)) ∧
  (∀ s : State, s.desync = false → fetchCommand s = decode s.cmd)

/-- Sample words written from the spec's encodings (R63 to R67). -/
def Obligations.SampleWordsDecode : Prop :=
  decode [0x00] = .command .nop [] ∧
  decode [0x02, 0x04, 0x24] = .command (.rd 0x04) [0x24] ∧
  decode [0x12, 0x04, 0x00, 0x00, 0x00, 0x4F, 0x67, 0x67, 0x53] = .command (.crcUpd [0x4F, 0x67, 0x67, 0x53]) [] ∧
  decode [0x20, 0x78, 0x56, 0x34, 0x12, 0x38, 0x01, 0xFF, 0xFF, 0xFF, 0xFF] =
    .command (.strOpen 0x12345678 312 (-1)) [] ∧
  decode [0x23, 0x03, 0x00, 0x00, 0x00, 0xF8, 0xFF, 0xFE] = .command (.pktAud [0xF8, 0xFF, 0xFE]) [] ∧
  decode [0x25, 0x00] = .illegal 0x25

/-- R61, R62: where the bytes of `CMD` decode to a command, a step is that command's execution on the state with its bytes taken. -/
def Obligations.StepRunsDecodedCommand : Prop :=
  ∀ (s : State) (i : Instr) (rest : List Byte),
    s.desync = false → decode s.cmd = .command i rest → step s = exec i { s with cmd := rest }

/-- R155: a reserved opcode byte is consumed alone, records `IllegalCommand` unless the block is already in phase `FAULT`,
and sets `DESYNC`; from then on no step consumes or executes anything. -/
def Obligations.IllegalOpcodeStopsDecoder : Prop :=
  (∀ (s : State) (op : Byte) (rest : List Byte),
    s.desync = false → s.cmd = op :: rest →
    op.toNat ∉ [0x00, 0x01, 0x02, 0x10, 0x11, 0x12, 0x18, 0x20, 0x21, 0x22, 0x23, 0x24] →
      (s.phase ≠ .fault →
        step s = .next { s with cmd := rest, err := 0x05, errinfo := 0, errop := op, out := [], phase := .fault, desync := true }) ∧
      (s.phase = .fault → step s = .next { s with cmd := rest, desync := true })) ∧
  (∀ s : State, s.desync = true → step s = .next s)

/-- R28, R155: only a hardware reset clears `DESYNC`; no step of a desynchronised block consumes a byte or does anything, and
every other event leaves all its registers as they are. -/
def Obligations.OnlyHardwareResetResynchronises : Prop :=
  ∀ (e : Event) (s t : State), s.desync = true → eventOutcome e s = .next t →
    (e = .hardReset ∧ t.desync = false ∧ t.phase = .idle) ∨
      (e ≠ .hardReset ∧ t = { s with cmd := t.cmd, rsp := t.rsp } ∧ (e = .step → t = s))

/-- R52: steps over the encodings of a list of commands are those commands executed in order, each complete before the next. -/
def Obligations.StepsRunCommandsInOrder : Prop :=
  ∀ (is : List Instr) (s : State) (rest : List Byte),
    (∀ i ∈ is, i.wellFormed = true) → s.desync = false → s.cmd = is.flatMap encode ++ rest →
      (Host.Core.run core is.length s : Result) = execAll is { s with cmd := rest }

/-! ### The checksum unit -/

/-- R45, R90: the unit consumes a byte from bit 7 to bit 0, one round for each bit. -/
def Obligations.CrcConsumesBitsMsbFirst : Prop :=
  ∀ (c : BitVec 32) (b : Byte),
    crcStep c b =
      [7, 6, 5, 4, 3, 2, 1, 0].foldl
        (fun (acc : BitVec 32) (k : Nat) => if (acc.getLsbD 31 ^^ b.getLsbD k) then (acc <<< 1) ^^^ 0x04C11DB7#32 else acc <<< 1) c

/-- R91, R92 (a) to (d): the empty buffer, zero bytes at the start, the byte 0x01, chaining. -/
def Obligations.CrcBufferLaws : Prop :=
  crcOgg [] = 0 ∧ crcStep 0 1 = 0x04C11DB7#32 ∧
  (∀ (n : Nat) (s : List Byte), crcOgg (List.replicate n 0 ++ s) = crcOgg s) ∧
  (∀ (c : BitVec 32) (s t : List Byte), crcFold c (s ++ t) = crcFold (crcFold c s) t)

/-- R92 (e): `crc_step` is linear over exclusive or, and so is the checksum of buffers of one length. -/
def Obligations.CrcIsLinear : Prop :=
  (∀ (c₁ c₂ : BitVec 32) (b₁ b₂ : Byte), crcStep (c₁ ^^^ c₂) (b₁ ^^^ b₂) = crcStep c₁ b₁ ^^^ crcStep c₂ b₂) ∧
  (∀ s t : List Byte, s.length = t.length → crcOgg (List.zipWith (· ^^^ ·) s t) = crcOgg s ^^^ crcOgg t)

/-- R92 (f): the table form gives the same result. -/
def Obligations.CrcTableForm : Prop :=
  ∀ (c : BitVec 32) (b : Byte), crcStep c b = (c <<< 8) ^^^ crcStep 0 (c.extractLsb' 24 8 ^^^ b)

/-- R93, R94: `CRC.CLR` and `CRC.UPD8` write `CRC` and nothing else, and are dropped in phase `FAULT`. -/
def Obligations.CrcClrAndUpd8WriteCrcOnly : Prop :=
  encode .crcClr = [0x10] ∧ (∀ imm8, encode (.crcUpd8 imm8) = [0x11, imm8]) ∧
  ∀ s : State,
    (s.phase ≠ .fault →
      exec .crcClr s = .next { s with crc := 0 } ∧ ∀ imm8, exec (.crcUpd8 imm8) s = .next { s with crc := crcStep s.crc imm8 }) ∧
    (s.phase = .fault → exec .crcClr s = .next s ∧ ∀ imm8, exec (.crcUpd8 imm8) s = .next s)

/-- R95: `CRC.UPD data` folds `data` into `CRC` and changes nothing else; it equals successive `CRC.UPD8` commands on the bytes of `data`. -/
def Obligations.CrcUpdIsSuccessiveUpd8 : Prop :=
  ∀ (s : State) (data : List Byte),
    encode (.crcUpd data) = 0x12 :: (leBytes 4 data.length ++ data) ∧
    (s.phase ≠ .fault → exec (.crcUpd data) s = .next { s with crc := crcFold s.crc data }) ∧
    (s.phase = .fault → exec (.crcUpd data) s = .next s) ∧
    exec (.crcUpd data) s = execAll (data.map .crcUpd8) s ∧
    exec (.crcUpd []) s = .next s

/-- R78: the pseudo-instruction `CRC.OF data` responds with the checksum of `data`, whatever `CRC` held. -/
def Obligations.CrcOfRespondsWithChecksum : Prop :=
  ∀ (s : State) (data : List Byte), s.phase ≠ .fault →
    execAll (expandPseudo (.crcOf data)) s =
      .next { s with crc := crcOgg data, rsp := s.rsp ++ [BitVec.ofNat 64 (crcOgg data).toNat] }

/-! ### The packet-duration unit -/

/-- R100: the frame count of a packet, or none where it is malformed. -/
def Obligations.FrameCountByCode : Prop :=
  nbFrames [] = none ∧
  ∀ (b0 : Byte) (rest : List Byte),
    (b0.toNat % 4 = 0 → nbFrames (b0 :: rest) = some 1) ∧
    (b0.toNat % 4 = 1 ∨ b0.toNat % 4 = 2 → nbFrames (b0 :: rest) = some 2) ∧
    (b0.toNat % 4 = 3 → rest = [] → nbFrames (b0 :: rest) = none) ∧
    (b0.toNat % 4 = 3 → ∀ b1 more, rest = b1 :: more → nbFrames (b0 :: rest) = some (b1.toNat % 64))

/-- R101: the table of samples per frame at 48000, by bits 7:3 of byte 0. -/
def Obligations.SamplesPerFrameTable : Prop :=
  ∀ b0 : Byte,
    [480, 960, 1920, 2880, 480, 960, 1920, 2880, 480, 960, 1920, 2880, 480, 960, 480, 960, 120, 240, 480, 960, 120, 240,
      480, 960, 120, 240, 480, 960, 120, 240, 480, 960][b0.toNat / 8]? = some (samplesPerFrame b0 48000)

/-- R102: the duration of a packet; `MalformedOpusPacket` first, then `PacketTooLong` above 5760 samples; exactly 5760 is
accepted. The result fits its registers (R104). -/
def Obligations.PacketDuration : Prop :=
  ∀ p : Packet,
    (nbFrames p = none → nbSamples p = .error .malformedOpusPacket) ∧
    (∀ nf, nbFrames p = some nf →
      (5760 < nf * samplesPerFrame (p.headD 0) 48000 → nbSamples p = .error .packetTooLong) ∧
      (nf * samplesPerFrame (p.headD 0) 48000 ≤ 5760 →
        nbSamples p = .ok ⟨nf, samplesPerFrame (p.headD 0) 48000, nf * samplesPerFrame (p.headD 0) 48000⟩)) ∧
    (∀ d, nbSamples p = .ok d → d.nf ≤ 48 ∧ d.spf ∈ [120, 240, 480, 960, 1920, 2880] ∧ d.n = d.nf * d.spf ∧ d.n ≤ 5760)

/-- R103: `DUR.CALC` writes the three result registers and nothing else, or raises the packet's fault with `PKTIDX`:
`MalformedOpusPacket` when and only when the packet is empty or one byte with code 3, `PacketTooLong` when and only when its
duration exceeds 5760 samples, and no other. It is dropped in phase `FAULT`, and bytes beyond the first two are ignored. -/
def Obligations.DurCalcMeasuresPacket : Prop :=
  ∀ (s : State) (data : Packet),
    encode (.durCalc data) = 0x18 :: (leBytes 4 data.length ++ data) ∧
    (s.phase = .fault → exec (.durCalc data) s = .next s) ∧
    (s.phase ≠ .fault → ∀ d, nbSamples data = .ok d →
      ∃ t, exec (.durCalc data) s = .next t ∧ t = { s with nbf := t.nbf, spf := t.spf, nsmp := t.nsmp } ∧
        t.nbf.toNat = d.nf ∧ t.spf.toNat = d.spf ∧ t.nsmp.toNat = d.n) ∧
    (nbSamples data = .error .malformedOpusPacket ↔ data = [] ∨ ∃ b0, data = [b0] ∧ b0.toNat % 4 = 3) ∧
    (nbSamples data = .error .packetTooLong ↔
      ∃ nf, nbFrames data = some nf ∧ 5760 < nf * samplesPerFrame (data.headD 0) 48000) ∧
    (∀ f, nbSamples data = .error f → f = .malformedOpusPacket ∨ f = .packetTooLong) ∧
    (s.phase ≠ .fault → ∀ f, nbSamples data = .error f →
      exec (.durCalc data) s =
        .next { s with err := faultByte f, errinfo := s.pktidx, errop := 0x18, out := [], phase := .fault }) ∧
    (∀ b0 b1 more other, data = b0 :: b1 :: more → exec (.durCalc data) s = exec (.durCalc (b0 :: b1 :: other)) s)

/-! ### The system commands -/

/-- R140: `NOP` changes nothing, in every phase; a run of zero bytes in `CMD` is a run of `NOP`s. -/
def Obligations.NopChangesNothing : Prop :=
  encode .nop = [0x00] ∧ (∀ s : State, exec .nop s = .next s) ∧
  (∀ (n : Nat) (s : State) (rest : List Byte), s.desync = false → s.cmd = List.replicate n 0x00 ++ rest →
    (Host.Core.run core n s : Result) = .next { s with cmd := rest })

/-- R33, R141, R180, R181: `RST`, in every phase, and a hardware reset put every register at zero and empty `OUT`; `RST` does
not touch `CMD` or `RSP`, a hardware reset discards the bytes of `CMD` not executed. That a hardware reset leaves `RSP` alone
is the model's choice (log 7). -/
def Obligations.ResetsZeroEveryRegister : Prop :=
  encode .rst = [0x01] ∧
  ∀ s : State,
    let zero : State :=
      { phase := .idle, tagpend := false, finalv := false, desync := false, err := 0, errinfo := 0, errop := 0, crc := 0,
        serial := 0, seq := 0, gran := 0, final := 0, preskip := 0, nsamp := 0, segtab := [], payload := [], pktidx := 0,
        nbf := 0, spf := 0, nsmp := 0, out := [], cmd := s.cmd, rsp := s.rsp, outCap := s.outCap }
    exec .rst s = .next zero ∧ eventOutcome .hardReset s = .next { zero with cmd := [] }

/-- R142, R12: `RD` of each register number appends that register, zero-extended, to `RSP`, in every phase, and changes
nothing else. The premise is the invariant `Memory.wf`; the widths of `SEGCNT` and `PAYLEN` hold their values under it. -/
def Obligations.RdRespondsWithRegister : Prop :=
  ∀ s : State, Memory.wf s = true →
    ∀ e ∈ ([(0x00, BitVec.ofNat 64 (statusWord s).toNat), (0x01, BitVec.ofNat 64 s.err.toNat),
        (0x02, BitVec.ofNat 64 s.errinfo.toNat), (0x03, BitVec.ofNat 64 s.errop.toNat), (0x04, BitVec.ofNat 64 s.crc.toNat),
        (0x05, BitVec.ofNat 64 s.serial.toNat), (0x06, BitVec.ofNat 64 s.seq.toNat), (0x07, s.gran), (0x08, s.final),
        (0x09, BitVec.ofNat 64 s.preskip.toNat), (0x0A, BitVec.ofNat 64 s.nsamp.toNat), (0x0B, BitVec.ofNat 64 s.segcnt),
        (0x0C, BitVec.ofNat 64 s.paylen), (0x0D, BitVec.ofNat 64 s.pktidx.toNat), (0x0E, BitVec.ofNat 64 s.outlen),
        (0x0F, BitVec.ofNat 64 s.nbf.toNat), (0x10, BitVec.ofNat 64 s.spf.toNat), (0x11, BitVec.ofNat 64 s.nsmp.toNat)] :
          List (Byte × BitVec 64)),
      exec (.rd e.1) s = .next { s with rsp := s.rsp ++ [e.2] }

/-- R156, R142, R162: `RD` of a number from 0x12 raises `IllegalRegister` with that number and sends no response; in phase
`FAULT` it is dropped. -/
def Obligations.RdOfReservedNumberFaults : Prop :=
  ∀ (s : State) (reg : Byte), 0x12 ≤ reg.toNat →
    (s.phase ≠ .fault →
      exec (.rd reg) s =
        .next { s with err := 0x06, errinfo := BitVec.ofNat 32 reg.toNat, errop := 0x02, out := [], phase := .fault }) ∧
    (s.phase = .fault → exec (.rd reg) s = .next s)

/-- R13: the fields of `STATUS`; bits 31:6 read 0, and no `RD` that a step executes returns `DESYNC = 1`. -/
def Obligations.StatusLayout : Prop :=
  (∀ s : State,
    (statusWord s).toNat % 8 =
      (match s.phase with | .idle => 0 | .head => 1 | .tags => 2 | .audio => 3 | .done => 4 | .fault => 5) ∧
    (statusWord s).getLsbD 3 = s.tagpend ∧ (statusWord s).getLsbD 4 = s.finalv ∧ (statusWord s).getLsbD 5 = s.desync ∧
    (∀ k, 6 ≤ k → (statusWord s).getLsbD k = false)) ∧
  (∀ (s t : State) (rest : List Byte), fetchCommand s = .command (.rd 0x00) rest → step s = .next t →
    ∃ v, t.rsp = s.rsp ++ [v] ∧ v.getLsbD 5 = false)

/-! ### Lacing and pages -/

/-- R74: `Lace(L)` is `floor(L/255)` bytes 255 and one byte `L mod 255`; its length is the document's count
`ceil(L/255)`, plus one when 255 divides `L` (C1); it sums to `L`. -/
def Obligations.LacingOfALength : Prop :=
  ∀ len : Nat,
    (lace len).length = segs len ∧ tableSum (lace len) = len ∧
    segs len = (len + 254) / 255 + (if len % 255 = 0 then 1 else 0) ∧
    (∀ k, k < len / 255 → (lace len)[k]? = some 0xFF) ∧
    (∃ v, (lace len)[len / 255]? = some v ∧ v.toNat = len % 255) ∧
    (segs len ≤ 255 ↔ len ≤ 65024)

/-- R75: unlacing the lacing of a list of packets gives the packets back, in order. -/
def Obligations.UnlaceInvertsLacing : Prop :=
  ∀ ps : List Packet, unlace (ps.flatMap fun p => lace p.length) ps.flatten = ps

/-- R71: every field of a page lies at its offset with its width and byte order. -/
def Obligations.PageLayoutByOffset : Prop :=
  ∀ (flags : Byte) (granule : BitVec 64) (serial seq crc : BitVec 32) (table payload : List Byte),
    table.length ≤ 255 →
      let page := pageImage flags granule serial seq crc table payload
      page.length = 27 + table.length + payload.length ∧
      memRead page 0 4 = [0x4F, 0x67, 0x67, 0x53] ∧ page[4]? = some 0x00 ∧ page[5]? = some flags ∧
      pageFlags page = flags ∧ pageGranule page = granule.toNat ∧ pageSerial page = serial.toNat ∧
      pageSeq page = seq.toNat ∧ pageCrc page = crc.toNat ∧ pageSegCount page = table.length ∧
      pageTable page = table ∧ pagePayload page = payload

/-- R112, R122: patching the checksum into the zero-field image writes exactly bytes 22 to 25, gives the page whose checksum
field is the image's checksum, and that page verifies. -/
def Obligations.PatchedPageVerifies : Prop :=
  ∀ (flags : Byte) (granule : BitVec 64) (serial seq : BitVec 32) (table payload : List Byte),
    let image := pageImage flags granule serial seq 0 table payload
    patchChecksum image = finishedPage flags granule serial seq table payload ∧
    pageVerifies (patchChecksum image) = true ∧
    pageCrc (patchChecksum image) = (crcOgg image).toNat ∧
    (∀ a, a < 22 ∨ 26 ≤ a → (patchChecksum image)[a]? = image[a]?)

/-! ### The stream commands -/

/-- R117, R20: `STR.OPEN` in `IDLE` and `DONE` writes exactly the stream's state; it raises `SequenceError` while a stream is
open and is dropped in phase `FAULT`. -/
def Obligations.StrOpenBeginsStream : Prop :=
  ∀ (s : State) (serial : BitVec 32) (preskip : BitVec 16) (nsamp : BitVec 32),
    encode (.strOpen serial preskip nsamp) =
      0x20 :: (leBytes 4 serial.toNat ++ leBytes 2 preskip.toNat ++ leBytes 4 nsamp.toNat) ∧
    (s.phase = .idle ∨ s.phase = .done →
      ∃ t, exec (.strOpen serial preskip nsamp) s = .next t ∧
        t = { s with
          serial := serial, preskip := preskip, nsamp := nsamp, finalv := t.finalv, final := t.final, seq := 0, gran := 0,
          pktidx := 0, segtab := [], payload := [], tagpend := false, out := [], phase := .head } ∧
        (0 < nsamp.toInt → t.finalv = true ∧ t.final.toNat = preskip.toNat + nsamp.toNat) ∧
        (nsamp.toInt ≤ 0 → t.finalv = false ∧ t.final = 0)) ∧
    (s.phase = .head ∨ s.phase = .tags ∨ s.phase = .audio →
      exec (.strOpen serial preskip nsamp) s = .next
        { s with err := 0x04, errinfo := (phaseCode s.phase).setWidth 32, errop := 0x20, out := [], phase := .fault }) ∧
    (s.phase = .fault → exec (.strOpen serial preskip nsamp) s = .next s)

/-- R118: `PKT.HEAD` in `HEAD` emits its page with flags 0x02 and granule 0; its faults in their order. Under the invariants
it is the first page of the stream. -/
def Obligations.PktHeadEmitsFirstPage : Prop :=
  ∀ (s : State) (data : Packet),
    let table := s.segtab ++ lace data.length
    let payload := s.payload ++ data
    encode (.pktHead data) = 0x21 :: (leBytes 4 data.length ++ data) ∧
    (s.phase = .fault → exec (.pktHead data) s = .next s) ∧
    (s.phase ≠ .fault → s.phase ≠ .head →
      exec (.pktHead data) s = .next
        { s with err := 0x04, errinfo := (phaseCode s.phase).setWidth 32, errop := 0x21, out := [], phase := .fault }) ∧
    (s.phase = .head → 65025 ≤ data.length →
      exec (.pktHead data) s = .next
        { s with err := 0x03, errinfo := s.pktidx, errop := 0x21, out := [], phase := .fault }) ∧
    (s.phase = .head → data.length ≤ 65024 → fitsSize (s.outlen + 27 + segs data.length + data.length) s.outCap = false →
      exec (.pktHead data) s = .next
        { s with err := 0x07, errinfo := s.seq, errop := 0x21, out := [], phase := .fault }) ∧
    (s.phase = .head → data.length ≤ 65024 → fitsSize (s.outlen + 27 + segs data.length + data.length) s.outCap = true →
      exec (.pktHead data) s = .next
        { s with
          crc := crcOgg (pageImage 0x02 0 s.serial s.seq 0 table payload)
          out := s.out ++ finishedPage 0x02 0 s.serial s.seq table payload
          seq := s.seq + 1, segtab := [], payload := [], phase := .tags }) ∧
    (s.phase = .head → data.length ≤ 65024 → fitsSize (s.outlen + 27 + segs data.length + data.length) s.outCap = true →
      BlockInv s → PagesInv s →
        ∃ t, exec (.pktHead data) s = .next t ∧ t.seq = 1 ∧ t.segcnt = 0 ∧ t.outlen = 27 + segs data.length + data.length)

/-- R119: `PKT.TAGS` in `TAGS` appends its packet to the pending page and holds it; its faults in their order. Under the
invariants `SEQ` is 1 and the pending page is that packet alone (R24). -/
def Obligations.PktTagsHoldsSecondPage : Prop :=
  ∀ (s : State) (data : Packet),
    encode (.pktTags data) = 0x22 :: (leBytes 4 data.length ++ data) ∧
    (s.phase = .fault → exec (.pktTags data) s = .next s) ∧
    (s.phase ≠ .fault → s.phase ≠ .tags →
      exec (.pktTags data) s = .next
        { s with err := 0x04, errinfo := (phaseCode s.phase).setWidth 32, errop := 0x22, out := [], phase := .fault }) ∧
    (s.phase = .tags → 65025 ≤ data.length →
      exec (.pktTags data) s = .next
        { s with err := 0x03, errinfo := s.pktidx, errop := 0x22, out := [], phase := .fault }) ∧
    (s.phase = .tags → data.length ≤ 65024 →
      exec (.pktTags data) s = .next
        { s with
          segtab := s.segtab ++ lace data.length, payload := s.payload ++ data, tagpend := true, phase := .audio }) ∧
    (s.phase = .tags → data.length ≤ 65024 → BlockInv s → PagesInv s →
      ∃ t, exec (.pktTags data) s = .next t ∧ t.seq = 1 ∧ s.seq = 1 ∧ t.outlen = s.outlen ∧ t.crc = s.crc ∧
        t.segtab = lace data.length ∧ t.payload = data)

/-- R120, R114: `PKT.AUD` places its packet in the pending page when it fits, else emits the pending page first; its faults
in their order (R158), each with nothing but the record, `PHASE` and `OUT` changed. -/
def Obligations.PktAudPlacesPacket : Prop :=
  ∀ (s : State) (data : Packet),
    let flush := s.tagpend = true ∨ 255 < s.segcnt + segs data.length
    let fits := fitsSize (s.outlen + 27 + s.segcnt + s.paylen) s.outCap
    let granule : BitVec 64 := if s.tagpend then 0 else s.gran
    encode (.pktAud data) = 0x23 :: (leBytes 4 data.length ++ data) ∧
    (s.phase = .fault → exec (.pktAud data) s = .next s) ∧
    (s.phase ≠ .fault → s.phase ≠ .audio →
      exec (.pktAud data) s = .next
        { s with err := 0x04, errinfo := (phaseCode s.phase).setWidth 32, errop := 0x23, out := [], phase := .fault }) ∧
    (s.phase = .audio → 65025 ≤ data.length →
      exec (.pktAud data) s = .next
        { s with err := 0x03, errinfo := s.pktidx, errop := 0x23, out := [], phase := .fault }) ∧
    (s.phase = .audio → data.length ≤ 65024 → ∀ f, nbSamples data = .error f →
      exec (.pktAud data) s = .next
        { s with err := faultByte f, errinfo := s.pktidx, errop := 0x23, out := [], phase := .fault }) ∧
    (s.phase = .audio → data.length ≤ 65024 → ∀ d, nbSamples data = .ok d →
      (flush → fits = false →
        exec (.pktAud data) s = .next
          { s with err := 0x07, errinfo := s.seq, errop := 0x23, out := [], phase := .fault }) ∧
      (¬ flush →
        exec (.pktAud data) s = .next
          { s with
            nbf := BitVec.ofNat 8 d.nf, spf := BitVec.ofNat 16 d.spf, nsmp := BitVec.ofNat 32 d.n
            segtab := s.segtab ++ lace data.length, payload := s.payload ++ data
            gran := s.gran + BitVec.ofNat 64 d.n, pktidx := s.pktidx + 1 }) ∧
      (flush → fits = true →
        exec (.pktAud data) s = .next
          { s with
            nbf := BitVec.ofNat 8 d.nf, spf := BitVec.ofNat 16 d.spf, nsmp := BitVec.ofNat 32 d.n
            crc := crcOgg (pageImage 0x00 granule s.serial s.seq 0 s.segtab s.payload)
            out := s.out ++ finishedPage 0x00 granule s.serial s.seq s.segtab s.payload
            seq := s.seq + 1, tagpend := false, segtab := lace data.length, payload := data
            gran := s.gran + BitVec.ofNat 64 d.n, pktidx := s.pktidx + 1 }))

/-- R121, R113: `STR.FIN` in `AUDIO` emits the pending page with flags 0x04 and ends the stream; its faults in their order.
Under the invariants `OUT` is then the stream of `SEQ` pages, which the host may read; it has no audio packet exactly when the
tags page was still held, and is then two pages, the second with flags 0x04 and granule position 0, whatever `FINALV`. -/
def Obligations.StrFinEmitsLastPage : Prop :=
  ∀ s : State,
    let fits := fitsSize (s.outlen + 27 + s.segcnt + s.paylen) s.outCap
    let granule : BitVec 64 := if s.tagpend then 0 else if s.finalv then s.final else s.gran
    encode .strFin = [0x24] ∧
    (s.phase = .fault → exec .strFin s = .next s) ∧
    (s.phase ≠ .fault → s.phase ≠ .audio →
      exec .strFin s = .next
        { s with err := 0x04, errinfo := (phaseCode s.phase).setWidth 32, errop := 0x24, out := [], phase := .fault }) ∧
    (s.phase = .audio → fits = false →
      exec .strFin s = .next
        { s with err := 0x07, errinfo := s.seq, errop := 0x24, out := [], phase := .fault }) ∧
    (s.phase = .audio → fits = true →
      exec .strFin s = .next
        { s with
          crc := crcOgg (pageImage 0x04 granule s.serial s.seq 0 s.segtab s.payload)
          out := s.out ++ finishedPage 0x04 granule s.serial s.seq s.segtab s.payload
          seq := s.seq + 1, tagpend := false, segtab := [], payload := [], phase := .done }) ∧
    (s.phase = .audio → fits = true → BlockInv s → PagesInv s →
      ∃ t pages, exec .strFin s = .next t ∧ t.segcnt = 0 ∧ t.readOut = some t.out ∧ pagesOf t.out = some pages ∧
        t.seq = BitVec.ofNat 32 pages.length ∧ (packetsOf (pages.drop 2) = [] ↔ s.tagpend = true) ∧
        (packetsOf (pages.drop 2) = [] →
          ∃ first second, pages = [first, second] ∧ pageFlags second = 0x04 ∧ pageGranule second = 0))

/-! ### The whole machine -/

/-- Every command in every state answers a next state; it leaves `CMD` and the capacity alone, and adds to `RSP` at most one
word, by `RD` only (R41, R49, R55, R142). -/
def Obligations.EveryCommandAnswersNext : Prop :=
  ∀ (i : Instr) (s : State), ∃ t, exec i s = .next t ∧ t.cmd = s.cmd ∧ t.outCap = s.outCap ∧
    (t.rsp = s.rsp ∨ ∃ reg v, i = .rd reg ∧ t = { s with rsp := s.rsp ++ [v] })

/-- R15: the phase after each command is the table's, in every phase, unless the command raises one of its own faults (the
column "raised by" of R150, other than `SequenceError`, which the table places), whose record is then entered. -/
def Obligations.PhaseTableIsComplete : Prop :=
  ∀ (i : Instr) (s : State),
    match phaseTable i.opcode s.phase with
    | .leadsTo p =>
      ∃ t, exec i s = .next t ∧
        (t.phase = p ∨
          s.phase ≠ .fault ∧ ∃ f, f ≠ .sequenceError ∧ mayRaise f i.opcode = true ∧
            t = { s with
              err := faultByte f, errinfo := faultInfo f i s, errop := opcodeByte i.opcode, out := [], phase := .fault })
    | .sequenceError =>
      exec i s = .next
        { s with
          err := 0x04, errinfo := (phaseCode s.phase).setWidth 32, errop := opcodeByte i.opcode, out := [], phase := .fault }
    | .drop => exec i s = .next s

/-- R150, R160: a step that enters phase `FAULT` writes the record of a fault its command may raise, empties `OUT`, and
changes nothing else; `DESYNC` is set exactly by the decoder's own fault. -/
def Obligations.FaultEntryIsPrecise : Prop :=
  ∀ s t : State, s.phase ≠ .fault → step s = .next t → t.phase = .fault →
    (∃ i rest f, fetchCommand s = .command i rest ∧ mayRaise f i.opcode = true ∧
      t = { s with
        cmd := rest, err := faultByte f, errinfo := faultInfo f i s, errop := opcodeByte i.opcode, out := [],
        phase := .fault }) ∨
    (∃ op rest, s.cmd = op :: rest ∧ fetchCommand s = .illegal op ∧
      t = { s with cmd := rest, err := 0x05, errinfo := 0, errop := op, out := [], phase := .fault, desync := true })

/-- R162: in phase `FAULT` whole commands are still taken; `NOP`, `RST` and `RD` of 0x00 to 0x11 execute, and every other
command has no effect whatever. -/
def Obligations.FaultPhaseDropsCommands : Prop :=
  ∀ (s : State) (i : Instr) (rest : List Byte),
    s.phase = .fault → fetchCommand s = .command i rest →
      (i = .rst → step s = .next { State.resetWith s.outCap with cmd := rest, rsp := s.rsp }) ∧
      (∀ reg, i = .rd reg → reg.toNat ≤ 0x11 → ∃ v, step s = .next { s with cmd := rest, rsp := s.rsp ++ [v] }) ∧
      (i ≠ .rst → (∀ reg, i = .rd reg → 0x12 ≤ reg.toNat) → step s = .next { s with cmd := rest })

/-- R161: the fault record and phase `FAULT` stay until `RST` or a hardware reset; phase `DONE` implies `ERR = 0`. -/
def Obligations.FaultRecordIsSticky : Prop :=
  (∀ s : State, BlockInv s → s.phase = .done → s.err = 0) ∧
  ∀ (e : Event) (s t : State), s.phase = .fault → eventOutcome e s = .next t →
    (t.phase = .fault ∧ t.err = s.err ∧ t.errinfo = s.errinfo ∧ t.errop = s.errop) ∨
      e = .hardReset ∨ (e = .step ∧ ∃ rest, fetchCommand s = .command .rst rest)

/-- R12, column "written by", R186, R187: a register keeps its value unless a command that the table names for it executes;
the fault record changes only where the command enters phase `FAULT`. -/
def Obligations.RegistersChangeOnlyByTheirWriters : Prop :=
  ∀ (i : Instr) (s t : State), i ≠ .rst → exec i s = .next t →
    (mayWriteCrc i.opcode = false → t.crc = s.crc) ∧
    (mayWriteDuration i.opcode = false → t.nbf = s.nbf ∧ t.spf = s.spf ∧ t.nsmp = s.nsmp) ∧
    (mayWriteSeq i.opcode = false → t.seq = s.seq) ∧
    (mayWriteCounts i.opcode = false → t.gran = s.gran ∧ t.pktidx = s.pktidx) ∧
    (mayWritePending i.opcode = false → t.segtab = s.segtab ∧ t.payload = s.payload ∧ t.tagpend = s.tagpend) ∧
    (i.opcode ≠ .strOpen →
      t.serial = s.serial ∧ t.preskip = s.preskip ∧ t.nsamp = s.nsamp ∧ t.final = s.final ∧ t.finalv = s.finalv) ∧
    (t.phase ≠ .fault ∨ s.phase = .fault → t.err = s.err ∧ t.errinfo = s.errinfo ∧ t.errop = s.errop) ∧
    t.desync = s.desync

/-- R186: the value of `CRC` before a command cannot reach a page: it changes nothing but `CRC` and the responses. -/
def Obligations.CrcRegisterCannotCorruptPages : Prop :=
  ∀ (i : Instr) (s : State) (c : BitVec 32),
    ∃ t u, exec i s = .next t ∧ exec i { s with crc := c } = .next u ∧ u = { t with crc := u.crc, rsp := u.rsp }

/-- R42: between `STR.OPEN` and the end of the stream no byte of `OUT` below `OUTLEN` is rewritten, and, under the block's
invariant, no command takes `OUT` past `OUT_CAP`. -/
def Obligations.OutIsAppendOnly : Prop :=
  ∀ (i : Instr) (s t : State), exec i s = .next t →
    (i ≠ .rst → i.opcode ≠ .strOpen → t.phase ≠ .fault →
      s.outlen ≤ t.outlen ∧ ∀ a, a < s.outlen → byteAt t .out a = byteAt s .out a) ∧
    (BlockInv s → fitsSize t.outlen t.outCap = true)

/-- R41, R110: where no page is emitted and no stream is opened, reset or faulted, every byte of every space reads as
before; only `PKT.TAGS` and `PKT.AUD` store, and they store the packet's lacing at `SEGCNT` and its bytes at `PAYLEN`. -/
def Obligations.CommandsStoreOnlyAtTheEnd : Prop :=
  ∀ (i : Instr) (s t : State), exec i s = .next t → i ≠ .rst → i.opcode ≠ .strOpen → t.phase ≠ .fault → t.seq = s.seq →
    (∀ sp a, a < (spaceBytes s sp).length → byteAt t sp a = byteAt s sp a) ∧
    (∀ a, byteAt t .out a = byteAt s .out a) ∧
    (i.opcode ≠ .pktTags → i.opcode ≠ .pktAud → ∀ sp a, byteAt t sp a = byteAt s sp a) ∧
    (i.opcode = .pktTags ∨ i.opcode = .pktAud →
      memRead t.segtab s.segcnt (segs i.payload.length) = lace i.payload.length ∧
      t.segcnt = s.segcnt + segs i.payload.length ∧
      memRead t.payload s.paylen i.payload.length = i.payload ∧ t.paylen = s.paylen + i.payload.length)

/-- R43, R49, R188: the host reads `OUT` exactly in phase `DONE`, as often as it likes; taking a response changes nothing
but `RSP`; the next `STR.OPEN` or `RST` empties the buffer. -/
def Obligations.HostReadsOutputOnlyWhenDone : Prop :=
  ∀ s : State,
    (s.phase = .done → s.readOut = some s.out) ∧ (s.phase ≠ .done → s.readOut = none) ∧
    eventOutcome .takeResponse s = .next { s with rsp := s.rsp.tail } ∧
    (∀ i t, i = .rst ∨ (i.opcode = .strOpen ∧ s.phase = .done) → exec i s = .next t → t.out = [] ∧ t.readOut = none)

/-! ### Invariants -/

/-- The invariants hold at reset, for every capacity (R33, R180). -/
def Obligations.InvariantsHoldAtReset : Prop :=
  ∀ cap : Option Nat, BlockInv (State.resetWith cap) ∧ StreamInv (State.resetWith cap)

/-- R30, with R20, R25, R26, R42: every step keeps the invariants of the block's registers. -/
def Obligations.StepKeepsBlockInvariant : Prop :=
  ∀ s t : State, BlockInv s → step s = .next t → BlockInv t

/-- R22, R23, R40: under the block's invariant every space is within its size; `PAYLEN` is at most 65024. -/
def Obligations.SpacesStayWithinTheirSizes : Prop :=
  ∀ s : State, BlockInv s → Memory.wf s = true ∧ Config.hdrLen + s.segcnt + s.paylen ≤ Config.pageMax

/-- R30 (h), R115, R123: every step keeps that `OUT` splits into `SEQ` pages, as many as the phase says. -/
def Obligations.StepKeepsPageCount : Prop :=
  ∀ s t : State, BlockInv s → PagesInv s → step s = .next t → PagesInv t

/-- R122: every step keeps that every page in `OUT` verifies. -/
def Obligations.StepKeepsChecksums : Prop :=
  ∀ s t : State, BlockInv s → ChecksumInv s → step s = .next t → ChecksumInv t

/-- R124: every step keeps that every page's segment count is 1 to 255 and is what its packets need. -/
def Obligations.StepKeepsLacingLaw : Prop :=
  ∀ s t : State, BlockInv s → LacingInv s → step s = .next t → LacingInv t

/-- R126: every step keeps the pages' sequence numbers, serial and flags. -/
def Obligations.StepKeepsSequenceAndFlags : Prop :=
  ∀ s t : State, BlockInv s → PagesInv s → SequenceInv s → step s = .next t → SequenceInv t

/-- R125, R113, R19: every step keeps the pages' granule positions and `GRAN`. -/
def Obligations.StepKeepsGranulePositions : Prop :=
  ∀ s t : State, BlockInv s → PagesInv s → GranuleInv s → step s = .next t → GranuleInv t

/-- R3: no act of the host between steps breaks an invariant. -/
def Obligations.HostActsKeepInvariants : Prop :=
  ∀ (e : Event) (s t : State), e ≠ .step → BlockInv s → StreamInv s → eventOutcome e s = .next t → BlockInv t ∧ StreamInv t

/-- R30, R122, R124, R126: in every state that any sequence of steps, bytes sent, responses taken and hardware resets leads
to from reset, at any capacity, all the invariants hold. -/
def Obligations.ReachableStatesMeetInvariants : Prop :=
  ∀ (cap : Option Nat) (s : State), Reachable cap s → BlockInv s ∧ StreamInv s

/-! ### Streams -/

/-- R116: the command sequence of a stream, from any state in `IDLE` or `DONE`, none of its packets faulting and the stream
within the capacity, leaves in `OUT` the bytes of the document's batch algorithm. -/
def Obligations.StreamEqualsBatchMuxer : Prop :=
  ∀ (s : State) (serial : BitVec 32) (preskip : BitVec 16) (nsamp : BitVec 32) (h t : Packet) (ps : List Packet),
    s.phase = .idle ∨ s.phase = .done → h.length ≤ 65024 → t.length ≤ 65024 →
    (∀ p ∈ ps, p.length ≤ 65024 ∧ ∃ d, nbSamples p = .ok d) →
    fitsSize (muxBatch serial preskip nsamp h t ps).length s.outCap = true →
      ∃ u, execAll (streamCommands serial preskip nsamp h t ps) s = .next u ∧ u.phase = .done ∧
        u.readOut = some (muxBatch serial preskip nsamp h t ps)

/-- R123: a stream that reached `DONE` holds exactly its packets, in order. -/
def Obligations.FinishedStreamHoldsItsPackets : Prop :=
  ∀ (s u : State) (serial : BitVec 32) (preskip : BitVec 16) (nsamp : BitVec 32) (h t : Packet) (ps : List Packet),
    s.phase = .idle ∨ s.phase = .done →
    execAll (streamCommands serial preskip nsamp h t ps) s = .next u → u.phase = .done →
      ∃ pages, pagesOf u.out = some pages ∧ packetsOf pages = h :: t :: ps

/-- R182: a stream's output does not depend on anything that happened before its `STR.OPEN`: from two states in which a
stream may be opened, with one capacity, the same commands lead to the same phase and output, however different the rest. -/
def Obligations.OutputIndependentOfHistory : Prop :=
  ∀ (s₁ s₂ : State) (serial : BitVec 32) (preskip : BitVec 16) (nsamp : BitVec 32) (is : List Instr),
    readyForStream s₁.phase = true → readyForStream s₂.phase = true → s₁.outCap = s₂.outCap →
      ∃ t₁ t₂, execAll (.strOpen serial preskip nsamp :: is) s₁ = .next t₁ ∧
        execAll (.strOpen serial preskip nsamp :: is) s₂ = .next t₂ ∧
        t₁.phase = t₂.phase ∧ t₁.out = t₂.out ∧ t₁.readOut = t₂.readOut
end

