-- ==== Sys2Proof/Laws/Crc.lean ====
section
/-! SUPPORT. The equations of R91, and that `strictly` is application. -/

namespace Sys2Proof.Machine

/-- `strictly c k` is `k c`. -/
@[simp] theorem strictly_eq {α : Type} (c : BitVec 32) (k : BitVec 32 → α) : strictly c k = k c := by
  unfold strictly
  split <;> rename_i h <;> congr 1 <;> apply BitVec.eq_of_toNat_eq <;> simp <;> omega

@[simp] theorem crcFold_nil (c : BitVec 32) : crcFold c [] = c := rfl

/-- R91's second equation. -/
@[simp] theorem crcFold_cons (c : BitVec 32) (b : Byte) (t : List Byte) : crcFold c (b :: t) = crcFold (crcStep c b) t :=
  strictly_eq _ _

end Sys2Proof.Machine
end

