-- ==== Sys2Proof/Laws/Operands.lean ====
section
/-! SUPPORT. Laws of little-endian fields and of byte-space reads and writes. -/

namespace Sys2Proof

@[simp] theorem leBytes_length (n v : Nat) : (leBytes n v).length = n := by
  induction n generalizing v with
  | zero => rfl
  | succ n ih => simp [leBytes, ih]

/-- `le` inverts `LE_n` on the numbers that fit. -/
theorem leValue_leBytes (n v : Nat) (h : v < 256 ^ n) : leValue (leBytes n v) = v := by
  induction n generalizing v with
  | zero => simp [leBytes, leValue]; simp at h; omega
  | succ n ih =>
    have hv : v / 256 < 256 ^ n := by
      rw [Nat.div_lt_iff_lt_mul (by decide)]; rw [Nat.pow_succ] at h; exact h
    simp only [leBytes, leValue, ih _ hv, BitVec.toNat_ofNat]
    omega

/-- A field of `n` bytes holds a number below `256^n`. -/
theorem leValue_lt (s : List Byte) : leValue s < 256 ^ s.length := by
  induction s with
  | nil => simp [leValue]
  | cons b s ih =>
    have hb : b.toNat < 256 := b.isLt
    simp only [leValue, List.length_cons, Nat.pow_succ]
    omega

/-- `LE_n` inverts `le` on `n` bytes. -/
theorem leBytes_leValue (s : List Byte) : leBytes s.length (leValue s) = s := by
  induction s with
  | nil => rfl
  | cons b s ih =>
    have hb : b.toNat < 256 := b.isLt
    have h1 : (b.toNat + 256 * leValue s) / 256 = leValue s := by omega
    simp only [List.length_cons, leBytes, leValue, h1, ih, List.cons.injEq, and_true]
    apply BitVec.eq_of_toNat_eq
    simp only [BitVec.toNat_ofNat]
    omega

/-- A write at the end of a space extends it. -/
@[simp] theorem memWrite_length (m bytes : List Byte) : memWrite m m.length bytes = m ++ bytes := by
  simp [memWrite]

/-- A write inside a space keeps its length. -/
theorem length_memWrite (m bytes : List Byte) (addr : Nat) (h : addr + bytes.length ≤ m.length) :
    (memWrite m addr bytes).length = m.length := by
  simp only [memWrite, List.length_append, List.length_take, List.length_drop]
  omega

/-- A read after a write to the same place gives the bytes written. -/
theorem memRead_memWrite (m bytes : List Byte) (addr : Nat) (h : addr ≤ m.length) :
    memRead (memWrite m addr bytes) addr bytes.length = bytes := by
  have hl : (m.take addr).length = addr := by simp [h]
  simp only [memRead, memWrite, List.append_assoc]
  rw [List.drop_append_of_le_length (by omega), List.drop_of_length_le (by omega)]
  simp

/-- A write leaves every byte outside it alone. -/
theorem getElem?_memWrite (m bytes : List Byte) (addr a : Nat) (h : addr + bytes.length ≤ m.length)
    (ha : a < addr ∨ addr + bytes.length ≤ a) : (memWrite m addr bytes)[a]? = m[a]? := by
  have hl : (m.take addr).length = addr := by simp; omega
  simp only [memWrite, List.append_assoc]
  rcases ha with ha | ha
  · rw [List.getElem?_append_left (by omega), List.getElem?_take_of_lt ha]
  · rw [List.getElem?_append_right (by omega), List.getElem?_append_right (by omega), List.getElem?_drop]
    congr 1
    omega

end Sys2Proof
end

