-- ==== Sys2Proof/Laws/State.lean ====
section
/-! SUPPORT. One lemma per field per update of State, true by unfolding the update, so that no later proof unfolds a record update. The
fields that an update extends (`appendPacket`, `emitPage`, `emitPending`) have their lemmas in Laws/Framer.lean. -/

namespace Sys2Proof.Machine

variable (s : State)


/-! `respond` -/

@[simp] theorem respond_phase (v : BitVec 64) : (respond v s).phase = s.phase := rfl
@[simp] theorem respond_tagpend (v : BitVec 64) : (respond v s).tagpend = s.tagpend := rfl
@[simp] theorem respond_finalv (v : BitVec 64) : (respond v s).finalv = s.finalv := rfl
@[simp] theorem respond_desync (v : BitVec 64) : (respond v s).desync = s.desync := rfl
@[simp] theorem respond_err (v : BitVec 64) : (respond v s).err = s.err := rfl
@[simp] theorem respond_errinfo (v : BitVec 64) : (respond v s).errinfo = s.errinfo := rfl
@[simp] theorem respond_errop (v : BitVec 64) : (respond v s).errop = s.errop := rfl
@[simp] theorem respond_crc (v : BitVec 64) : (respond v s).crc = s.crc := rfl
@[simp] theorem respond_serial (v : BitVec 64) : (respond v s).serial = s.serial := rfl
@[simp] theorem respond_seq (v : BitVec 64) : (respond v s).seq = s.seq := rfl
@[simp] theorem respond_gran (v : BitVec 64) : (respond v s).gran = s.gran := rfl
@[simp] theorem respond_final (v : BitVec 64) : (respond v s).final = s.final := rfl
@[simp] theorem respond_preskip (v : BitVec 64) : (respond v s).preskip = s.preskip := rfl
@[simp] theorem respond_nsamp (v : BitVec 64) : (respond v s).nsamp = s.nsamp := rfl
@[simp] theorem respond_segtab (v : BitVec 64) : (respond v s).segtab = s.segtab := rfl
@[simp] theorem respond_payload (v : BitVec 64) : (respond v s).payload = s.payload := rfl
@[simp] theorem respond_pktidx (v : BitVec 64) : (respond v s).pktidx = s.pktidx := rfl
@[simp] theorem respond_nbf (v : BitVec 64) : (respond v s).nbf = s.nbf := rfl
@[simp] theorem respond_spf (v : BitVec 64) : (respond v s).spf = s.spf := rfl
@[simp] theorem respond_nsmp (v : BitVec 64) : (respond v s).nsmp = s.nsmp := rfl
@[simp] theorem respond_out (v : BitVec 64) : (respond v s).out = s.out := rfl
@[simp] theorem respond_cmd (v : BitVec 64) : (respond v s).cmd = s.cmd := rfl
@[simp] theorem respond_rsp (v : BitVec 64) : (respond v s).rsp = s.rsp ++ [v] := rfl
@[simp] theorem respond_outCap (v : BitVec 64) : (respond v s).outCap = s.outCap := rfl

/-! `enterFault` -/

@[simp] theorem enterFault_phase (f : FaultCode) (info : BitVec 32) (op : Byte) : (enterFault f info op s).phase = .fault := rfl
@[simp] theorem enterFault_tagpend (f : FaultCode) (info : BitVec 32) (op : Byte) : (enterFault f info op s).tagpend = s.tagpend := rfl
@[simp] theorem enterFault_finalv (f : FaultCode) (info : BitVec 32) (op : Byte) : (enterFault f info op s).finalv = s.finalv := rfl
@[simp] theorem enterFault_desync (f : FaultCode) (info : BitVec 32) (op : Byte) : (enterFault f info op s).desync = s.desync := rfl
@[simp] theorem enterFault_err (f : FaultCode) (info : BitVec 32) (op : Byte) : (enterFault f info op s).err = faultByte f := rfl
@[simp] theorem enterFault_errinfo (f : FaultCode) (info : BitVec 32) (op : Byte) : (enterFault f info op s).errinfo = info := rfl
@[simp] theorem enterFault_errop (f : FaultCode) (info : BitVec 32) (op : Byte) : (enterFault f info op s).errop = op := rfl
@[simp] theorem enterFault_crc (f : FaultCode) (info : BitVec 32) (op : Byte) : (enterFault f info op s).crc = s.crc := rfl
@[simp] theorem enterFault_serial (f : FaultCode) (info : BitVec 32) (op : Byte) : (enterFault f info op s).serial = s.serial := rfl
@[simp] theorem enterFault_seq (f : FaultCode) (info : BitVec 32) (op : Byte) : (enterFault f info op s).seq = s.seq := rfl
@[simp] theorem enterFault_gran (f : FaultCode) (info : BitVec 32) (op : Byte) : (enterFault f info op s).gran = s.gran := rfl
@[simp] theorem enterFault_final (f : FaultCode) (info : BitVec 32) (op : Byte) : (enterFault f info op s).final = s.final := rfl
@[simp] theorem enterFault_preskip (f : FaultCode) (info : BitVec 32) (op : Byte) : (enterFault f info op s).preskip = s.preskip := rfl
@[simp] theorem enterFault_nsamp (f : FaultCode) (info : BitVec 32) (op : Byte) : (enterFault f info op s).nsamp = s.nsamp := rfl
@[simp] theorem enterFault_segtab (f : FaultCode) (info : BitVec 32) (op : Byte) : (enterFault f info op s).segtab = s.segtab := rfl
@[simp] theorem enterFault_payload (f : FaultCode) (info : BitVec 32) (op : Byte) : (enterFault f info op s).payload = s.payload := rfl
@[simp] theorem enterFault_pktidx (f : FaultCode) (info : BitVec 32) (op : Byte) : (enterFault f info op s).pktidx = s.pktidx := rfl
@[simp] theorem enterFault_nbf (f : FaultCode) (info : BitVec 32) (op : Byte) : (enterFault f info op s).nbf = s.nbf := rfl
@[simp] theorem enterFault_spf (f : FaultCode) (info : BitVec 32) (op : Byte) : (enterFault f info op s).spf = s.spf := rfl
@[simp] theorem enterFault_nsmp (f : FaultCode) (info : BitVec 32) (op : Byte) : (enterFault f info op s).nsmp = s.nsmp := rfl
@[simp] theorem enterFault_out (f : FaultCode) (info : BitVec 32) (op : Byte) : (enterFault f info op s).out = [] := rfl
@[simp] theorem enterFault_cmd (f : FaultCode) (info : BitVec 32) (op : Byte) : (enterFault f info op s).cmd = s.cmd := rfl
@[simp] theorem enterFault_rsp (f : FaultCode) (info : BitVec 32) (op : Byte) : (enterFault f info op s).rsp = s.rsp := rfl
@[simp] theorem enterFault_outCap (f : FaultCode) (info : BitVec 32) (op : Byte) : (enterFault f info op s).outCap = s.outCap := rfl

/-! `setCrc` -/

@[simp] theorem setCrc_phase (c : BitVec 32) : (setCrc c s).phase = s.phase := rfl
@[simp] theorem setCrc_tagpend (c : BitVec 32) : (setCrc c s).tagpend = s.tagpend := rfl
@[simp] theorem setCrc_finalv (c : BitVec 32) : (setCrc c s).finalv = s.finalv := rfl
@[simp] theorem setCrc_desync (c : BitVec 32) : (setCrc c s).desync = s.desync := rfl
@[simp] theorem setCrc_err (c : BitVec 32) : (setCrc c s).err = s.err := rfl
@[simp] theorem setCrc_errinfo (c : BitVec 32) : (setCrc c s).errinfo = s.errinfo := rfl
@[simp] theorem setCrc_errop (c : BitVec 32) : (setCrc c s).errop = s.errop := rfl
@[simp] theorem setCrc_crc (c : BitVec 32) : (setCrc c s).crc = c := rfl
@[simp] theorem setCrc_serial (c : BitVec 32) : (setCrc c s).serial = s.serial := rfl
@[simp] theorem setCrc_seq (c : BitVec 32) : (setCrc c s).seq = s.seq := rfl
@[simp] theorem setCrc_gran (c : BitVec 32) : (setCrc c s).gran = s.gran := rfl
@[simp] theorem setCrc_final (c : BitVec 32) : (setCrc c s).final = s.final := rfl
@[simp] theorem setCrc_preskip (c : BitVec 32) : (setCrc c s).preskip = s.preskip := rfl
@[simp] theorem setCrc_nsamp (c : BitVec 32) : (setCrc c s).nsamp = s.nsamp := rfl
@[simp] theorem setCrc_segtab (c : BitVec 32) : (setCrc c s).segtab = s.segtab := rfl
@[simp] theorem setCrc_payload (c : BitVec 32) : (setCrc c s).payload = s.payload := rfl
@[simp] theorem setCrc_pktidx (c : BitVec 32) : (setCrc c s).pktidx = s.pktidx := rfl
@[simp] theorem setCrc_nbf (c : BitVec 32) : (setCrc c s).nbf = s.nbf := rfl
@[simp] theorem setCrc_spf (c : BitVec 32) : (setCrc c s).spf = s.spf := rfl
@[simp] theorem setCrc_nsmp (c : BitVec 32) : (setCrc c s).nsmp = s.nsmp := rfl
@[simp] theorem setCrc_out (c : BitVec 32) : (setCrc c s).out = s.out := rfl
@[simp] theorem setCrc_cmd (c : BitVec 32) : (setCrc c s).cmd = s.cmd := rfl
@[simp] theorem setCrc_rsp (c : BitVec 32) : (setCrc c s).rsp = s.rsp := rfl
@[simp] theorem setCrc_outCap (c : BitVec 32) : (setCrc c s).outCap = s.outCap := rfl

/-! `setDuration` -/

@[simp] theorem setDuration_phase (d : Duration) : (setDuration d s).phase = s.phase := rfl
@[simp] theorem setDuration_tagpend (d : Duration) : (setDuration d s).tagpend = s.tagpend := rfl
@[simp] theorem setDuration_finalv (d : Duration) : (setDuration d s).finalv = s.finalv := rfl
@[simp] theorem setDuration_desync (d : Duration) : (setDuration d s).desync = s.desync := rfl
@[simp] theorem setDuration_err (d : Duration) : (setDuration d s).err = s.err := rfl
@[simp] theorem setDuration_errinfo (d : Duration) : (setDuration d s).errinfo = s.errinfo := rfl
@[simp] theorem setDuration_errop (d : Duration) : (setDuration d s).errop = s.errop := rfl
@[simp] theorem setDuration_crc (d : Duration) : (setDuration d s).crc = s.crc := rfl
@[simp] theorem setDuration_serial (d : Duration) : (setDuration d s).serial = s.serial := rfl
@[simp] theorem setDuration_seq (d : Duration) : (setDuration d s).seq = s.seq := rfl
@[simp] theorem setDuration_gran (d : Duration) : (setDuration d s).gran = s.gran := rfl
@[simp] theorem setDuration_final (d : Duration) : (setDuration d s).final = s.final := rfl
@[simp] theorem setDuration_preskip (d : Duration) : (setDuration d s).preskip = s.preskip := rfl
@[simp] theorem setDuration_nsamp (d : Duration) : (setDuration d s).nsamp = s.nsamp := rfl
@[simp] theorem setDuration_segtab (d : Duration) : (setDuration d s).segtab = s.segtab := rfl
@[simp] theorem setDuration_payload (d : Duration) : (setDuration d s).payload = s.payload := rfl
@[simp] theorem setDuration_pktidx (d : Duration) : (setDuration d s).pktidx = s.pktidx := rfl
@[simp] theorem setDuration_nbf (d : Duration) : (setDuration d s).nbf = BitVec.ofNat 8 d.nf := rfl
@[simp] theorem setDuration_spf (d : Duration) : (setDuration d s).spf = BitVec.ofNat 16 d.spf := rfl
@[simp] theorem setDuration_nsmp (d : Duration) : (setDuration d s).nsmp = BitVec.ofNat 32 d.n := rfl
@[simp] theorem setDuration_out (d : Duration) : (setDuration d s).out = s.out := rfl
@[simp] theorem setDuration_cmd (d : Duration) : (setDuration d s).cmd = s.cmd := rfl
@[simp] theorem setDuration_rsp (d : Duration) : (setDuration d s).rsp = s.rsp := rfl
@[simp] theorem setDuration_outCap (d : Duration) : (setDuration d s).outCap = s.outCap := rfl

/-! `setPhase` -/

@[simp] theorem setPhase_phase (p : Phase) : (setPhase p s).phase = p := rfl
@[simp] theorem setPhase_tagpend (p : Phase) : (setPhase p s).tagpend = s.tagpend := rfl
@[simp] theorem setPhase_finalv (p : Phase) : (setPhase p s).finalv = s.finalv := rfl
@[simp] theorem setPhase_desync (p : Phase) : (setPhase p s).desync = s.desync := rfl
@[simp] theorem setPhase_err (p : Phase) : (setPhase p s).err = s.err := rfl
@[simp] theorem setPhase_errinfo (p : Phase) : (setPhase p s).errinfo = s.errinfo := rfl
@[simp] theorem setPhase_errop (p : Phase) : (setPhase p s).errop = s.errop := rfl
@[simp] theorem setPhase_crc (p : Phase) : (setPhase p s).crc = s.crc := rfl
@[simp] theorem setPhase_serial (p : Phase) : (setPhase p s).serial = s.serial := rfl
@[simp] theorem setPhase_seq (p : Phase) : (setPhase p s).seq = s.seq := rfl
@[simp] theorem setPhase_gran (p : Phase) : (setPhase p s).gran = s.gran := rfl
@[simp] theorem setPhase_final (p : Phase) : (setPhase p s).final = s.final := rfl
@[simp] theorem setPhase_preskip (p : Phase) : (setPhase p s).preskip = s.preskip := rfl
@[simp] theorem setPhase_nsamp (p : Phase) : (setPhase p s).nsamp = s.nsamp := rfl
@[simp] theorem setPhase_segtab (p : Phase) : (setPhase p s).segtab = s.segtab := rfl
@[simp] theorem setPhase_payload (p : Phase) : (setPhase p s).payload = s.payload := rfl
@[simp] theorem setPhase_pktidx (p : Phase) : (setPhase p s).pktidx = s.pktidx := rfl
@[simp] theorem setPhase_nbf (p : Phase) : (setPhase p s).nbf = s.nbf := rfl
@[simp] theorem setPhase_spf (p : Phase) : (setPhase p s).spf = s.spf := rfl
@[simp] theorem setPhase_nsmp (p : Phase) : (setPhase p s).nsmp = s.nsmp := rfl
@[simp] theorem setPhase_out (p : Phase) : (setPhase p s).out = s.out := rfl
@[simp] theorem setPhase_cmd (p : Phase) : (setPhase p s).cmd = s.cmd := rfl
@[simp] theorem setPhase_rsp (p : Phase) : (setPhase p s).rsp = s.rsp := rfl
@[simp] theorem setPhase_outCap (p : Phase) : (setPhase p s).outCap = s.outCap := rfl

/-! `holdTagsPage` -/

@[simp] theorem holdTagsPage_phase : (holdTagsPage s).phase = s.phase := rfl
@[simp] theorem holdTagsPage_tagpend : (holdTagsPage s).tagpend = true := rfl
@[simp] theorem holdTagsPage_finalv : (holdTagsPage s).finalv = s.finalv := rfl
@[simp] theorem holdTagsPage_desync : (holdTagsPage s).desync = s.desync := rfl
@[simp] theorem holdTagsPage_err : (holdTagsPage s).err = s.err := rfl
@[simp] theorem holdTagsPage_errinfo : (holdTagsPage s).errinfo = s.errinfo := rfl
@[simp] theorem holdTagsPage_errop : (holdTagsPage s).errop = s.errop := rfl
@[simp] theorem holdTagsPage_crc : (holdTagsPage s).crc = s.crc := rfl
@[simp] theorem holdTagsPage_serial : (holdTagsPage s).serial = s.serial := rfl
@[simp] theorem holdTagsPage_seq : (holdTagsPage s).seq = s.seq := rfl
@[simp] theorem holdTagsPage_gran : (holdTagsPage s).gran = s.gran := rfl
@[simp] theorem holdTagsPage_final : (holdTagsPage s).final = s.final := rfl
@[simp] theorem holdTagsPage_preskip : (holdTagsPage s).preskip = s.preskip := rfl
@[simp] theorem holdTagsPage_nsamp : (holdTagsPage s).nsamp = s.nsamp := rfl
@[simp] theorem holdTagsPage_segtab : (holdTagsPage s).segtab = s.segtab := rfl
@[simp] theorem holdTagsPage_payload : (holdTagsPage s).payload = s.payload := rfl
@[simp] theorem holdTagsPage_pktidx : (holdTagsPage s).pktidx = s.pktidx := rfl
@[simp] theorem holdTagsPage_nbf : (holdTagsPage s).nbf = s.nbf := rfl
@[simp] theorem holdTagsPage_spf : (holdTagsPage s).spf = s.spf := rfl
@[simp] theorem holdTagsPage_nsmp : (holdTagsPage s).nsmp = s.nsmp := rfl
@[simp] theorem holdTagsPage_out : (holdTagsPage s).out = s.out := rfl
@[simp] theorem holdTagsPage_cmd : (holdTagsPage s).cmd = s.cmd := rfl
@[simp] theorem holdTagsPage_rsp : (holdTagsPage s).rsp = s.rsp := rfl
@[simp] theorem holdTagsPage_outCap : (holdTagsPage s).outCap = s.outCap := rfl

/-! `countPacket` -/

@[simp] theorem countPacket_phase (n : Nat) : (countPacket n s).phase = s.phase := rfl
@[simp] theorem countPacket_tagpend (n : Nat) : (countPacket n s).tagpend = s.tagpend := rfl
@[simp] theorem countPacket_finalv (n : Nat) : (countPacket n s).finalv = s.finalv := rfl
@[simp] theorem countPacket_desync (n : Nat) : (countPacket n s).desync = s.desync := rfl
@[simp] theorem countPacket_err (n : Nat) : (countPacket n s).err = s.err := rfl
@[simp] theorem countPacket_errinfo (n : Nat) : (countPacket n s).errinfo = s.errinfo := rfl
@[simp] theorem countPacket_errop (n : Nat) : (countPacket n s).errop = s.errop := rfl
@[simp] theorem countPacket_crc (n : Nat) : (countPacket n s).crc = s.crc := rfl
@[simp] theorem countPacket_serial (n : Nat) : (countPacket n s).serial = s.serial := rfl
@[simp] theorem countPacket_seq (n : Nat) : (countPacket n s).seq = s.seq := rfl
@[simp] theorem countPacket_gran (n : Nat) : (countPacket n s).gran = s.gran + BitVec.ofNat 64 n := rfl
@[simp] theorem countPacket_final (n : Nat) : (countPacket n s).final = s.final := rfl
@[simp] theorem countPacket_preskip (n : Nat) : (countPacket n s).preskip = s.preskip := rfl
@[simp] theorem countPacket_nsamp (n : Nat) : (countPacket n s).nsamp = s.nsamp := rfl
@[simp] theorem countPacket_segtab (n : Nat) : (countPacket n s).segtab = s.segtab := rfl
@[simp] theorem countPacket_payload (n : Nat) : (countPacket n s).payload = s.payload := rfl
@[simp] theorem countPacket_pktidx (n : Nat) : (countPacket n s).pktidx = s.pktidx + 1 := rfl
@[simp] theorem countPacket_nbf (n : Nat) : (countPacket n s).nbf = s.nbf := rfl
@[simp] theorem countPacket_spf (n : Nat) : (countPacket n s).spf = s.spf := rfl
@[simp] theorem countPacket_nsmp (n : Nat) : (countPacket n s).nsmp = s.nsmp := rfl
@[simp] theorem countPacket_out (n : Nat) : (countPacket n s).out = s.out := rfl
@[simp] theorem countPacket_cmd (n : Nat) : (countPacket n s).cmd = s.cmd := rfl
@[simp] theorem countPacket_rsp (n : Nat) : (countPacket n s).rsp = s.rsp := rfl
@[simp] theorem countPacket_outCap (n : Nat) : (countPacket n s).outCap = s.outCap := rfl

/-! `takeCommand` -/

@[simp] theorem takeCommand_phase (rest : List Byte) : (takeCommand rest s).phase = s.phase := rfl
@[simp] theorem takeCommand_tagpend (rest : List Byte) : (takeCommand rest s).tagpend = s.tagpend := rfl
@[simp] theorem takeCommand_finalv (rest : List Byte) : (takeCommand rest s).finalv = s.finalv := rfl
@[simp] theorem takeCommand_desync (rest : List Byte) : (takeCommand rest s).desync = s.desync := rfl
@[simp] theorem takeCommand_err (rest : List Byte) : (takeCommand rest s).err = s.err := rfl
@[simp] theorem takeCommand_errinfo (rest : List Byte) : (takeCommand rest s).errinfo = s.errinfo := rfl
@[simp] theorem takeCommand_errop (rest : List Byte) : (takeCommand rest s).errop = s.errop := rfl
@[simp] theorem takeCommand_crc (rest : List Byte) : (takeCommand rest s).crc = s.crc := rfl
@[simp] theorem takeCommand_serial (rest : List Byte) : (takeCommand rest s).serial = s.serial := rfl
@[simp] theorem takeCommand_seq (rest : List Byte) : (takeCommand rest s).seq = s.seq := rfl
@[simp] theorem takeCommand_gran (rest : List Byte) : (takeCommand rest s).gran = s.gran := rfl
@[simp] theorem takeCommand_final (rest : List Byte) : (takeCommand rest s).final = s.final := rfl
@[simp] theorem takeCommand_preskip (rest : List Byte) : (takeCommand rest s).preskip = s.preskip := rfl
@[simp] theorem takeCommand_nsamp (rest : List Byte) : (takeCommand rest s).nsamp = s.nsamp := rfl
@[simp] theorem takeCommand_segtab (rest : List Byte) : (takeCommand rest s).segtab = s.segtab := rfl
@[simp] theorem takeCommand_payload (rest : List Byte) : (takeCommand rest s).payload = s.payload := rfl
@[simp] theorem takeCommand_pktidx (rest : List Byte) : (takeCommand rest s).pktidx = s.pktidx := rfl
@[simp] theorem takeCommand_nbf (rest : List Byte) : (takeCommand rest s).nbf = s.nbf := rfl
@[simp] theorem takeCommand_spf (rest : List Byte) : (takeCommand rest s).spf = s.spf := rfl
@[simp] theorem takeCommand_nsmp (rest : List Byte) : (takeCommand rest s).nsmp = s.nsmp := rfl
@[simp] theorem takeCommand_out (rest : List Byte) : (takeCommand rest s).out = s.out := rfl
@[simp] theorem takeCommand_cmd (rest : List Byte) : (takeCommand rest s).cmd = rest := rfl
@[simp] theorem takeCommand_rsp (rest : List Byte) : (takeCommand rest s).rsp = s.rsp := rfl
@[simp] theorem takeCommand_outCap (rest : List Byte) : (takeCommand rest s).outCap = s.outCap := rfl

/-! `State.send` -/

@[simp] theorem send_phase (bytes : List Byte) : (State.send bytes s).phase = s.phase := rfl
@[simp] theorem send_tagpend (bytes : List Byte) : (State.send bytes s).tagpend = s.tagpend := rfl
@[simp] theorem send_finalv (bytes : List Byte) : (State.send bytes s).finalv = s.finalv := rfl
@[simp] theorem send_desync (bytes : List Byte) : (State.send bytes s).desync = s.desync := rfl
@[simp] theorem send_err (bytes : List Byte) : (State.send bytes s).err = s.err := rfl
@[simp] theorem send_errinfo (bytes : List Byte) : (State.send bytes s).errinfo = s.errinfo := rfl
@[simp] theorem send_errop (bytes : List Byte) : (State.send bytes s).errop = s.errop := rfl
@[simp] theorem send_crc (bytes : List Byte) : (State.send bytes s).crc = s.crc := rfl
@[simp] theorem send_serial (bytes : List Byte) : (State.send bytes s).serial = s.serial := rfl
@[simp] theorem send_seq (bytes : List Byte) : (State.send bytes s).seq = s.seq := rfl
@[simp] theorem send_gran (bytes : List Byte) : (State.send bytes s).gran = s.gran := rfl
@[simp] theorem send_final (bytes : List Byte) : (State.send bytes s).final = s.final := rfl
@[simp] theorem send_preskip (bytes : List Byte) : (State.send bytes s).preskip = s.preskip := rfl
@[simp] theorem send_nsamp (bytes : List Byte) : (State.send bytes s).nsamp = s.nsamp := rfl
@[simp] theorem send_segtab (bytes : List Byte) : (State.send bytes s).segtab = s.segtab := rfl
@[simp] theorem send_payload (bytes : List Byte) : (State.send bytes s).payload = s.payload := rfl
@[simp] theorem send_pktidx (bytes : List Byte) : (State.send bytes s).pktidx = s.pktidx := rfl
@[simp] theorem send_nbf (bytes : List Byte) : (State.send bytes s).nbf = s.nbf := rfl
@[simp] theorem send_spf (bytes : List Byte) : (State.send bytes s).spf = s.spf := rfl
@[simp] theorem send_nsmp (bytes : List Byte) : (State.send bytes s).nsmp = s.nsmp := rfl
@[simp] theorem send_out (bytes : List Byte) : (State.send bytes s).out = s.out := rfl
@[simp] theorem send_cmd (bytes : List Byte) : (State.send bytes s).cmd = s.cmd ++ bytes := rfl
@[simp] theorem send_rsp (bytes : List Byte) : (State.send bytes s).rsp = s.rsp := rfl
@[simp] theorem send_outCap (bytes : List Byte) : (State.send bytes s).outCap = s.outCap := rfl

/-! `State.takeResponse` -/

@[simp] theorem takeResponse_phase : (State.takeResponse s).phase = s.phase := rfl
@[simp] theorem takeResponse_tagpend : (State.takeResponse s).tagpend = s.tagpend := rfl
@[simp] theorem takeResponse_finalv : (State.takeResponse s).finalv = s.finalv := rfl
@[simp] theorem takeResponse_desync : (State.takeResponse s).desync = s.desync := rfl
@[simp] theorem takeResponse_err : (State.takeResponse s).err = s.err := rfl
@[simp] theorem takeResponse_errinfo : (State.takeResponse s).errinfo = s.errinfo := rfl
@[simp] theorem takeResponse_errop : (State.takeResponse s).errop = s.errop := rfl
@[simp] theorem takeResponse_crc : (State.takeResponse s).crc = s.crc := rfl
@[simp] theorem takeResponse_serial : (State.takeResponse s).serial = s.serial := rfl
@[simp] theorem takeResponse_seq : (State.takeResponse s).seq = s.seq := rfl
@[simp] theorem takeResponse_gran : (State.takeResponse s).gran = s.gran := rfl
@[simp] theorem takeResponse_final : (State.takeResponse s).final = s.final := rfl
@[simp] theorem takeResponse_preskip : (State.takeResponse s).preskip = s.preskip := rfl
@[simp] theorem takeResponse_nsamp : (State.takeResponse s).nsamp = s.nsamp := rfl
@[simp] theorem takeResponse_segtab : (State.takeResponse s).segtab = s.segtab := rfl
@[simp] theorem takeResponse_payload : (State.takeResponse s).payload = s.payload := rfl
@[simp] theorem takeResponse_pktidx : (State.takeResponse s).pktidx = s.pktidx := rfl
@[simp] theorem takeResponse_nbf : (State.takeResponse s).nbf = s.nbf := rfl
@[simp] theorem takeResponse_spf : (State.takeResponse s).spf = s.spf := rfl
@[simp] theorem takeResponse_nsmp : (State.takeResponse s).nsmp = s.nsmp := rfl
@[simp] theorem takeResponse_out : (State.takeResponse s).out = s.out := rfl
@[simp] theorem takeResponse_cmd : (State.takeResponse s).cmd = s.cmd := rfl
@[simp] theorem takeResponse_rsp : (State.takeResponse s).rsp = s.rsp.tail := rfl
@[simp] theorem takeResponse_outCap : (State.takeResponse s).outCap = s.outCap := rfl

/-! `openStream` -/

@[simp] theorem openStream_phase (serial : BitVec 32) (preskip : BitVec 16) (nsamp : BitVec 32) : (openStream serial preskip nsamp s).phase = .head := rfl
@[simp] theorem openStream_tagpend (serial : BitVec 32) (preskip : BitVec 16) (nsamp : BitVec 32) : (openStream serial preskip nsamp s).tagpend = false := rfl
@[simp] theorem openStream_finalv (serial : BitVec 32) (preskip : BitVec 16) (nsamp : BitVec 32) : (openStream serial preskip nsamp s).finalv = countKnown nsamp := rfl
@[simp] theorem openStream_desync (serial : BitVec 32) (preskip : BitVec 16) (nsamp : BitVec 32) : (openStream serial preskip nsamp s).desync = s.desync := rfl
@[simp] theorem openStream_err (serial : BitVec 32) (preskip : BitVec 16) (nsamp : BitVec 32) : (openStream serial preskip nsamp s).err = s.err := rfl
@[simp] theorem openStream_errinfo (serial : BitVec 32) (preskip : BitVec 16) (nsamp : BitVec 32) : (openStream serial preskip nsamp s).errinfo = s.errinfo := rfl
@[simp] theorem openStream_errop (serial : BitVec 32) (preskip : BitVec 16) (nsamp : BitVec 32) : (openStream serial preskip nsamp s).errop = s.errop := rfl
@[simp] theorem openStream_crc (serial : BitVec 32) (preskip : BitVec 16) (nsamp : BitVec 32) : (openStream serial preskip nsamp s).crc = s.crc := rfl
@[simp] theorem openStream_serial (serial : BitVec 32) (preskip : BitVec 16) (nsamp : BitVec 32) : (openStream serial preskip nsamp s).serial = serial := rfl
@[simp] theorem openStream_seq (serial : BitVec 32) (preskip : BitVec 16) (nsamp : BitVec 32) : (openStream serial preskip nsamp s).seq = 0 := rfl
@[simp] theorem openStream_gran (serial : BitVec 32) (preskip : BitVec 16) (nsamp : BitVec 32) : (openStream serial preskip nsamp s).gran = 0 := rfl
@[simp] theorem openStream_final (serial : BitVec 32) (preskip : BitVec 16) (nsamp : BitVec 32) : (openStream serial preskip nsamp s).final = finalGranule preskip nsamp := rfl
@[simp] theorem openStream_preskip (serial : BitVec 32) (preskip : BitVec 16) (nsamp : BitVec 32) : (openStream serial preskip nsamp s).preskip = preskip := rfl
@[simp] theorem openStream_nsamp (serial : BitVec 32) (preskip : BitVec 16) (nsamp : BitVec 32) : (openStream serial preskip nsamp s).nsamp = nsamp := rfl
@[simp] theorem openStream_segtab (serial : BitVec 32) (preskip : BitVec 16) (nsamp : BitVec 32) : (openStream serial preskip nsamp s).segtab = [] := rfl
@[simp] theorem openStream_payload (serial : BitVec 32) (preskip : BitVec 16) (nsamp : BitVec 32) : (openStream serial preskip nsamp s).payload = [] := rfl
@[simp] theorem openStream_pktidx (serial : BitVec 32) (preskip : BitVec 16) (nsamp : BitVec 32) : (openStream serial preskip nsamp s).pktidx = 0 := rfl
@[simp] theorem openStream_nbf (serial : BitVec 32) (preskip : BitVec 16) (nsamp : BitVec 32) : (openStream serial preskip nsamp s).nbf = s.nbf := rfl
@[simp] theorem openStream_spf (serial : BitVec 32) (preskip : BitVec 16) (nsamp : BitVec 32) : (openStream serial preskip nsamp s).spf = s.spf := rfl
@[simp] theorem openStream_nsmp (serial : BitVec 32) (preskip : BitVec 16) (nsamp : BitVec 32) : (openStream serial preskip nsamp s).nsmp = s.nsmp := rfl
@[simp] theorem openStream_out (serial : BitVec 32) (preskip : BitVec 16) (nsamp : BitVec 32) : (openStream serial preskip nsamp s).out = [] := rfl
@[simp] theorem openStream_cmd (serial : BitVec 32) (preskip : BitVec 16) (nsamp : BitVec 32) : (openStream serial preskip nsamp s).cmd = s.cmd := rfl
@[simp] theorem openStream_rsp (serial : BitVec 32) (preskip : BitVec 16) (nsamp : BitVec 32) : (openStream serial preskip nsamp s).rsp = s.rsp := rfl
@[simp] theorem openStream_outCap (serial : BitVec 32) (preskip : BitVec 16) (nsamp : BitVec 32) : (openStream serial preskip nsamp s).outCap = s.outCap := rfl

/-! `appendPacket` -/

@[simp] theorem appendPacket_phase (p : Packet) : (appendPacket p s).phase = s.phase := rfl
@[simp] theorem appendPacket_tagpend (p : Packet) : (appendPacket p s).tagpend = s.tagpend := rfl
@[simp] theorem appendPacket_finalv (p : Packet) : (appendPacket p s).finalv = s.finalv := rfl
@[simp] theorem appendPacket_desync (p : Packet) : (appendPacket p s).desync = s.desync := rfl
@[simp] theorem appendPacket_err (p : Packet) : (appendPacket p s).err = s.err := rfl
@[simp] theorem appendPacket_errinfo (p : Packet) : (appendPacket p s).errinfo = s.errinfo := rfl
@[simp] theorem appendPacket_errop (p : Packet) : (appendPacket p s).errop = s.errop := rfl
@[simp] theorem appendPacket_crc (p : Packet) : (appendPacket p s).crc = s.crc := rfl
@[simp] theorem appendPacket_serial (p : Packet) : (appendPacket p s).serial = s.serial := rfl
@[simp] theorem appendPacket_seq (p : Packet) : (appendPacket p s).seq = s.seq := rfl
@[simp] theorem appendPacket_gran (p : Packet) : (appendPacket p s).gran = s.gran := rfl
@[simp] theorem appendPacket_final (p : Packet) : (appendPacket p s).final = s.final := rfl
@[simp] theorem appendPacket_preskip (p : Packet) : (appendPacket p s).preskip = s.preskip := rfl
@[simp] theorem appendPacket_nsamp (p : Packet) : (appendPacket p s).nsamp = s.nsamp := rfl
@[simp] theorem appendPacket_pktidx (p : Packet) : (appendPacket p s).pktidx = s.pktidx := rfl
@[simp] theorem appendPacket_nbf (p : Packet) : (appendPacket p s).nbf = s.nbf := rfl
@[simp] theorem appendPacket_spf (p : Packet) : (appendPacket p s).spf = s.spf := rfl
@[simp] theorem appendPacket_nsmp (p : Packet) : (appendPacket p s).nsmp = s.nsmp := rfl
@[simp] theorem appendPacket_out (p : Packet) : (appendPacket p s).out = s.out := rfl
@[simp] theorem appendPacket_cmd (p : Packet) : (appendPacket p s).cmd = s.cmd := rfl
@[simp] theorem appendPacket_rsp (p : Packet) : (appendPacket p s).rsp = s.rsp := rfl
@[simp] theorem appendPacket_outCap (p : Packet) : (appendPacket p s).outCap = s.outCap := rfl

/-! `emitPage` -/

@[simp] theorem emitPage_phase (flags : Byte) (granule : BitVec 64) : (emitPage flags granule s).phase = s.phase := rfl
@[simp] theorem emitPage_tagpend (flags : Byte) (granule : BitVec 64) : (emitPage flags granule s).tagpend = s.tagpend := rfl
@[simp] theorem emitPage_finalv (flags : Byte) (granule : BitVec 64) : (emitPage flags granule s).finalv = s.finalv := rfl
@[simp] theorem emitPage_desync (flags : Byte) (granule : BitVec 64) : (emitPage flags granule s).desync = s.desync := rfl
@[simp] theorem emitPage_err (flags : Byte) (granule : BitVec 64) : (emitPage flags granule s).err = s.err := rfl
@[simp] theorem emitPage_errinfo (flags : Byte) (granule : BitVec 64) : (emitPage flags granule s).errinfo = s.errinfo := rfl
@[simp] theorem emitPage_errop (flags : Byte) (granule : BitVec 64) : (emitPage flags granule s).errop = s.errop := rfl
@[simp] theorem emitPage_crc (flags : Byte) (granule : BitVec 64) : (emitPage flags granule s).crc = crcOgg (serialise flags granule s) := by
  simp only [emitPage]
@[simp] theorem emitPage_serial (flags : Byte) (granule : BitVec 64) : (emitPage flags granule s).serial = s.serial := rfl
@[simp] theorem emitPage_seq (flags : Byte) (granule : BitVec 64) : (emitPage flags granule s).seq = s.seq + 1 := rfl
@[simp] theorem emitPage_gran (flags : Byte) (granule : BitVec 64) : (emitPage flags granule s).gran = s.gran := rfl
@[simp] theorem emitPage_final (flags : Byte) (granule : BitVec 64) : (emitPage flags granule s).final = s.final := rfl
@[simp] theorem emitPage_preskip (flags : Byte) (granule : BitVec 64) : (emitPage flags granule s).preskip = s.preskip := rfl
@[simp] theorem emitPage_nsamp (flags : Byte) (granule : BitVec 64) : (emitPage flags granule s).nsamp = s.nsamp := rfl
@[simp] theorem emitPage_segtab (flags : Byte) (granule : BitVec 64) : (emitPage flags granule s).segtab = [] := rfl
@[simp] theorem emitPage_payload (flags : Byte) (granule : BitVec 64) : (emitPage flags granule s).payload = [] := rfl
@[simp] theorem emitPage_pktidx (flags : Byte) (granule : BitVec 64) : (emitPage flags granule s).pktidx = s.pktidx := rfl
@[simp] theorem emitPage_nbf (flags : Byte) (granule : BitVec 64) : (emitPage flags granule s).nbf = s.nbf := rfl
@[simp] theorem emitPage_spf (flags : Byte) (granule : BitVec 64) : (emitPage flags granule s).spf = s.spf := rfl
@[simp] theorem emitPage_nsmp (flags : Byte) (granule : BitVec 64) : (emitPage flags granule s).nsmp = s.nsmp := rfl
@[simp] theorem emitPage_cmd (flags : Byte) (granule : BitVec 64) : (emitPage flags granule s).cmd = s.cmd := rfl
@[simp] theorem emitPage_rsp (flags : Byte) (granule : BitVec 64) : (emitPage flags granule s).rsp = s.rsp := rfl
@[simp] theorem emitPage_outCap (flags : Byte) (granule : BitVec 64) : (emitPage flags granule s).outCap = s.outCap := rfl

/-! `emitPending` -/

@[simp] theorem emitPending_phase (flags : Byte) (granule : BitVec 64) : (emitPending flags granule s).phase = s.phase := rfl
@[simp] theorem emitPending_tagpend (flags : Byte) (granule : BitVec 64) : (emitPending flags granule s).tagpend = false := rfl
@[simp] theorem emitPending_finalv (flags : Byte) (granule : BitVec 64) : (emitPending flags granule s).finalv = s.finalv := rfl
@[simp] theorem emitPending_desync (flags : Byte) (granule : BitVec 64) : (emitPending flags granule s).desync = s.desync := rfl
@[simp] theorem emitPending_err (flags : Byte) (granule : BitVec 64) : (emitPending flags granule s).err = s.err := rfl
@[simp] theorem emitPending_errinfo (flags : Byte) (granule : BitVec 64) : (emitPending flags granule s).errinfo = s.errinfo := rfl
@[simp] theorem emitPending_errop (flags : Byte) (granule : BitVec 64) : (emitPending flags granule s).errop = s.errop := rfl
@[simp] theorem emitPending_crc (flags : Byte) (granule : BitVec 64) : (emitPending flags granule s).crc = crcOgg (serialise flags (if s.tagpend then 0 else granule) s) := by
  simp only [emitPending, emitPage]
@[simp] theorem emitPending_serial (flags : Byte) (granule : BitVec 64) : (emitPending flags granule s).serial = s.serial := rfl
@[simp] theorem emitPending_seq (flags : Byte) (granule : BitVec 64) : (emitPending flags granule s).seq = s.seq + 1 := rfl
@[simp] theorem emitPending_gran (flags : Byte) (granule : BitVec 64) : (emitPending flags granule s).gran = s.gran := rfl
@[simp] theorem emitPending_final (flags : Byte) (granule : BitVec 64) : (emitPending flags granule s).final = s.final := rfl
@[simp] theorem emitPending_preskip (flags : Byte) (granule : BitVec 64) : (emitPending flags granule s).preskip = s.preskip := rfl
@[simp] theorem emitPending_nsamp (flags : Byte) (granule : BitVec 64) : (emitPending flags granule s).nsamp = s.nsamp := rfl
@[simp] theorem emitPending_segtab (flags : Byte) (granule : BitVec 64) : (emitPending flags granule s).segtab = [] := rfl
@[simp] theorem emitPending_payload (flags : Byte) (granule : BitVec 64) : (emitPending flags granule s).payload = [] := rfl
@[simp] theorem emitPending_pktidx (flags : Byte) (granule : BitVec 64) : (emitPending flags granule s).pktidx = s.pktidx := rfl
@[simp] theorem emitPending_nbf (flags : Byte) (granule : BitVec 64) : (emitPending flags granule s).nbf = s.nbf := rfl
@[simp] theorem emitPending_spf (flags : Byte) (granule : BitVec 64) : (emitPending flags granule s).spf = s.spf := rfl
@[simp] theorem emitPending_nsmp (flags : Byte) (granule : BitVec 64) : (emitPending flags granule s).nsmp = s.nsmp := rfl
@[simp] theorem emitPending_cmd (flags : Byte) (granule : BitVec 64) : (emitPending flags granule s).cmd = s.cmd := rfl
@[simp] theorem emitPending_rsp (flags : Byte) (granule : BitVec 64) : (emitPending flags granule s).rsp = s.rsp := rfl
@[simp] theorem emitPending_outCap (flags : Byte) (granule : BitVec 64) : (emitPending flags granule s).outCap = s.outCap := rfl

/-! `softReset` -/

@[simp] theorem softReset_phase : (softReset s).phase = .idle := rfl
@[simp] theorem softReset_tagpend : (softReset s).tagpend = false := rfl
@[simp] theorem softReset_finalv : (softReset s).finalv = false := rfl
@[simp] theorem softReset_desync : (softReset s).desync = false := rfl
@[simp] theorem softReset_err : (softReset s).err = 0 := rfl
@[simp] theorem softReset_errinfo : (softReset s).errinfo = 0 := rfl
@[simp] theorem softReset_errop : (softReset s).errop = 0 := rfl
@[simp] theorem softReset_crc : (softReset s).crc = 0 := rfl
@[simp] theorem softReset_serial : (softReset s).serial = 0 := rfl
@[simp] theorem softReset_seq : (softReset s).seq = 0 := rfl
@[simp] theorem softReset_gran : (softReset s).gran = 0 := rfl
@[simp] theorem softReset_final : (softReset s).final = 0 := rfl
@[simp] theorem softReset_preskip : (softReset s).preskip = 0 := rfl
@[simp] theorem softReset_nsamp : (softReset s).nsamp = 0 := rfl
@[simp] theorem softReset_segtab : (softReset s).segtab = [] := rfl
@[simp] theorem softReset_payload : (softReset s).payload = [] := rfl
@[simp] theorem softReset_pktidx : (softReset s).pktidx = 0 := rfl
@[simp] theorem softReset_nbf : (softReset s).nbf = 0 := rfl
@[simp] theorem softReset_spf : (softReset s).spf = 0 := rfl
@[simp] theorem softReset_nsmp : (softReset s).nsmp = 0 := rfl
@[simp] theorem softReset_out : (softReset s).out = [] := rfl
@[simp] theorem softReset_cmd : (softReset s).cmd = s.cmd := rfl
@[simp] theorem softReset_rsp : (softReset s).rsp = s.rsp := rfl
@[simp] theorem softReset_outCap : (softReset s).outCap = s.outCap := rfl

end Sys2Proof.Machine
end

