-- ==== Sys2Proof/Laws/Framer.lean ====
section
/-! SUPPORT. Laws of the page framer's procedures: what they extend, and the sizes of what they write. -/

namespace Sys2Proof.Machine

variable (s : State)

@[simp] theorem appendPacket_segtab (p : Packet) : (appendPacket p s).segtab = s.segtab ++ lace p.length :=
  memWrite_length s.segtab (lace p.length)

@[simp] theorem appendPacket_payload (p : Packet) : (appendPacket p s).payload = s.payload ++ p :=
  memWrite_length s.payload p

@[simp] theorem emitPage_out (flags : Byte) (granule : BitVec 64) :
    (emitPage flags granule s).out = s.out ++ patchChecksum (serialise flags granule s) :=
  memWrite_length s.out _

@[simp] theorem emitPending_out (flags : Byte) (granule : BitVec 64) :
    (emitPending flags granule s).out =
      s.out ++ patchChecksum (serialise flags (if s.tagpend then 0 else granule) s) :=
  memWrite_length s.out _

/-- `Lace` has the length that `Segs` counts. -/
@[simp] theorem length_lace (len : Nat) : (lace len).length = segs len := by
  simp [lace, segs]

/-- A page is 27 bytes of header, its segment table and its payload. -/
theorem length_pageImage (flags : Byte) (granule : BitVec 64) (serial seq crc : BitVec 32) (table payload : List Byte) :
    (pageImage flags granule serial seq crc table payload).length = Config.hdrLen + table.length + payload.length := by
  simp [pageImage, capturePattern, Config.hdrLen]
  omega

/-- The patch changes no page's length. -/
theorem length_patchChecksum (image : List Byte) (h : 26 ≤ image.length) : (patchChecksum image).length = image.length :=
  length_memWrite image _ _ (by simpa [checksumOffset] using h)

/-- The emitted page's length, `27 + SEGCNT + PAYLEN`. -/
theorem outlen_emitPage (flags : Byte) (granule : BitVec 64) :
    (emitPage flags granule s).outlen = s.outlen + (Config.hdrLen + s.segcnt + s.paylen) := by
  have h := length_pageImage flags granule s.serial s.seq 0 s.segtab s.payload
  have h26 : 26 ≤ (serialise flags granule s).length := by
    simp only [serialise, h, Config.hdrLen]; omega
  simp only [State.outlen, State.segcnt, State.paylen, emitPage_out, List.length_append,
    length_patchChecksum _ h26]
  simp only [serialise, h]

/-- Unlacing one packet's lacing gives its bytes, and leaves the rest to be unlaced. -/
theorem unlaceFrom_replicate (k acc : Nat) (t payload : List Byte) :
    unlaceFrom acc (List.replicate k 0xFF ++ t) payload = unlaceFrom (acc + 255 * k) t payload := by
  induction k generalizing acc with
  | zero => simp
  | succ k ih =>
    have h255 : ¬ ((0xFF : Byte).toNat < Config.segMax) := by decide
    rw [List.replicate_succ, List.cons_append, unlaceFrom, if_neg h255, ih]
    congr 1
    have : (0xFF : Byte).toNat = 255 := by decide
    omega

end Sys2Proof.Machine
end

