-- ==== Sys2Proof/Laws/Ops.lean ====
section
/-! SUPPORT. Laws of the shared operations: fault entry, the drop in phase `FAULT`, reset, and the form of the memories. -/

namespace Sys2Proof.Machine

variable (s : State)

/-- Outside phase `FAULT` raising a fault is fault entry (R160). -/
theorem raise_of_ne (f : FaultCode) (info : BitVec 32) (op : Byte) (h : s.phase ≠ .fault) :
    raise f info op s = enterFault f info op s := if_neg h

/-- In phase `FAULT` nothing is recorded (R161). -/
theorem raise_of_fault (f : FaultCode) (info : BitVec 32) (op : Byte) (h : s.phase = .fault) : raise f info op s = s :=
  if_pos h

/-- Whatever a raise does, the block is in phase `FAULT` after it. -/
theorem raise_phase (f : FaultCode) (info : BitVec 32) (op : Byte) : (raise f info op s).phase = .fault := by
  unfold raise
  split
  · assumption
  · rfl

/-- In phase `FAULT` the effect does not happen (R162). -/
theorem unlessFault_of_fault (effect : State → State) (h : s.phase = .fault) : unlessFault effect s = s := if_pos h

/-- In every other phase it does. -/
theorem unlessFault_of_ne (effect : State → State) (h : s.phase ≠ .fault) : unlessFault effect s = effect s := if_neg h

/-- Everything `unlessFault` can do. -/
theorem unlessFault_cases (effect : State → State) :
    (s.phase = .fault ∧ unlessFault effect s = s) ∨ (s.phase ≠ .fault ∧ unlessFault effect s = effect s) := by
  by_cases h : s.phase = .fault
  · exact .inl ⟨h, unlessFault_of_fault s effect h⟩
  · exact .inr ⟨h, unlessFault_of_ne s effect h⟩

/-- A larger space holds what a smaller one does. -/
theorem fitsSize_of_le {m n : Nat} {cap : Option Nat} (hn : fitsSize n cap = true) (h : m ≤ n) : fitsSize m cap = true := by
  cases cap with
  | none => rfl
  | some c => simp only [fitsSize, decide_eq_true_eq] at *; omega

/-- What the form of the memories says, space by space. -/
theorem Memory.wf_iff :
    Memory.wf s = true ↔ s.segtab.length ≤ 255 ∧ s.payload.length ≤ 65024 ∧ fitsSize s.out.length s.outCap = true := by
  simp [Memory.wf, spaceSize, fitsSize, Config.maxSegs, Config.payloadMax, and_assoc]

/-- The reset state's memories have the form, whatever the capacity. -/
theorem Memory.wf_resetWith (cap : Option Nat) : Memory.wf (State.resetWith cap) = true := by
  rw [Memory.wf_iff]
  cases cap <;> simp [State.resetWith, fitsSize]

/-- `State.reset`'s memories have the form. -/
theorem Memory.wf_reset : Memory.wf State.reset = true := Memory.wf_resetWith _

/-- Reset and `RST` empty the spaces. -/
theorem Memory.wf_softReset : Memory.wf (softReset s) = true := Memory.wf_resetWith s.outCap

/-- `STR.OPEN` empties the spaces. -/
theorem Memory.wf_openStream (serial : BitVec 32) (preskip : BitVec 16) (nsamp : BitVec 32) :
    Memory.wf (openStream serial preskip nsamp s) = true := by
  rw [Memory.wf_iff]
  refine ⟨by simp, by simp, ?_⟩
  simp only [openStream_out, openStream_outCap, List.length_nil]
  cases s.outCap <;> simp [fitsSize]

/-- Fault entry keeps the form: it empties `OUT` and leaves the pending page. -/
theorem Memory.wf_enterFault (f : FaultCode) (info : BitVec 32) (op : Byte) (h : Memory.wf s = true) :
    Memory.wf (enterFault f info op s) = true := by
  rw [Memory.wf_iff] at *
  exact ⟨h.1, h.2.1, fitsSize_of_le h.2.2 (Nat.zero_le _)⟩

/-- `AppendPacket` keeps the form where its precondition holds (R110): the segments fit, and so does the payload. -/
theorem Memory.wf_appendPacket (p : Packet) (h : Memory.wf s = true) (hs : s.segcnt + segs p.length ≤ 255)
    (hp : s.paylen + p.length ≤ 65024) : Memory.wf (appendPacket p s) = true := by
  rw [Memory.wf_iff] at *
  refine ⟨?_, ?_, h.2.2⟩
  · simpa [State.segcnt] using hs
  · simpa [State.paylen] using hp

/-- `EmitPage` keeps the form where `PageFits` holds (R112). -/
theorem Memory.wf_emitPage (flags : Byte) (granule : BitVec 64) (h : pageFits s = true) :
    Memory.wf (emitPage flags granule s) = true := by
  rw [Memory.wf_iff]
  refine ⟨by simp, by simp, ?_⟩
  have ho := outlen_emitPage s flags granule
  simp only [State.outlen] at ho
  rw [ho]
  exact h

/-- Emitting the pending page keeps the form where `PageFits` holds. -/
theorem Memory.wf_emitPending (flags : Byte) (granule : BitVec 64) (h : pageFits s = true) :
    Memory.wf (emitPending flags granule s) = true :=
  Memory.wf_emitPage s flags _ h

/-- The cells of a space list its addresses in order from 0, each once. -/
theorem spaceCells_addresses (sp : Space) : (spaceCells s sp).map Prod.fst = List.range (spaceBytes s sp).length := by
  simp [spaceCells, List.map_map, Function.comp_def, List.zipIdx_map_snd, List.range_eq_range']

/-- Equal cells are equal contents. -/
theorem spaceBytes_of_spaceCells (sp : Space) : (spaceCells s sp).map Prod.snd = spaceBytes s sp := by
  simp [spaceCells, List.map_map, Function.comp_def, List.zipIdx_map_fst]

end Sys2Proof.Machine
end

