-- ==== Sys2Proof/Laws/PerInstr.lean ====
section
/-! SUPPORT. Statements about every command as syntax, one lemma per constructor of Instr. -/

namespace Sys2Proof.Laws.EncodedLength

/-- An encoding begins with the command's opcode byte and has the length of R67's table. -/
def Statement (i : Instr) : Prop := (encode i).head? = some (opcodeByte i.opcode) ∧ (encode i).length = commandLength i

/-- Format B: an opcode, four bytes of `len`, the payload (R65). -/
theorem encodePayload_length (data : List Byte) : (encodePayload data).length = 4 + data.length := by
  simp [encodePayload]

theorem nop : Statement .nop := ⟨rfl, rfl⟩

theorem rst : Statement .rst := ⟨rfl, rfl⟩

theorem rd (reg : Byte) : Statement (.rd reg) := ⟨rfl, rfl⟩

theorem crcClr : Statement .crcClr := ⟨rfl, rfl⟩

theorem crcUpd8 (imm8 : Byte) : Statement (.crcUpd8 imm8) := ⟨rfl, rfl⟩

theorem crcUpd (data : List Byte) : Statement (.crcUpd data) :=
  ⟨rfl, by simp only [encode, encodeOperands, commandLength, List.length_cons, encodePayload_length]; omega⟩

theorem durCalc (data : Packet) : Statement (.durCalc data) :=
  ⟨rfl, by simp only [encode, encodeOperands, commandLength, List.length_cons, encodePayload_length]; omega⟩

theorem strOpen (serial : BitVec 32) (preskip : BitVec 16) (nsamp : BitVec 32) : Statement (.strOpen serial preskip nsamp) :=
  ⟨rfl, by simp [encode, encodeOperands, commandLength]⟩

theorem pktHead (data : Packet) : Statement (.pktHead data) :=
  ⟨rfl, by simp only [encode, encodeOperands, commandLength, List.length_cons, encodePayload_length]; omega⟩

theorem pktTags (data : Packet) : Statement (.pktTags data) :=
  ⟨rfl, by simp only [encode, encodeOperands, commandLength, List.length_cons, encodePayload_length]; omega⟩

theorem pktAud (data : Packet) : Statement (.pktAud data) :=
  ⟨rfl, by simp only [encode, encodeOperands, commandLength, List.length_cons, encodePayload_length]; omega⟩

theorem strFin : Statement .strFin := ⟨rfl, rfl⟩

end Sys2Proof.Laws.EncodedLength
end

