-- ==== Sys2Proof/Laws/Step.lean ====
section
/-! SUPPORT. What a step can do, said once. -/

namespace Sys2Proof.Machine

/-- A step executes a whole command, stops on a reserved opcode, or waits. -/
theorem step_cases {s t : State} (h : step s = .next t) :
    (∃ i rest, s.desync = false ∧ decode s.cmd = .command i rest ∧ exec i (takeCommand rest s) = .next t) ∨
    (∃ op, s.desync = false ∧ decode s.cmd = .illegal op ∧ t = takeIllegal op s) ∨
    ((s.desync = true ∨ decode s.cmd = .incomplete) ∧ t = s) := by
  cases hd : s.desync with
  | true =>
    refine .inr (.inr ⟨.inl rfl, ?_⟩)
    simpa [step, fetchCommand, hd, waitForCommand] using h.symm
  | false =>
    have hf : fetchCommand s = decode s.cmd := by simp [fetchCommand, hd]
    rw [step, hf] at h
    cases hv : decode s.cmd with
    | command i rest => exact .inl ⟨i, rest, rfl, rfl, by simpa [hv] using h⟩
    | illegal op => exact .inr (.inl ⟨op, rfl, rfl, by simpa [hv] using h.symm⟩)
    | incomplete => exact .inr (.inr ⟨.inr rfl, by simpa [hv, waitForCommand] using h.symm⟩)

end Sys2Proof.Machine
end

