-- ==== Sys2Proof/Machine/Assembler.lean ====
section
/-! DEFINITION. The textual form of commands (spec/30_encoding.md R77) and of the pseudo-instructions (R78). What R77 does
not say is in log 12: text it does not describe is refused. -/

namespace Sys2Proof.Machine

/-- Everything before the comment character `;`, outside a quoted string (R77). -/
def stripComment (quoted : Bool) : List Char → List Char
  | [] => []
  | c :: cs =>
    if c = ';' ∧ quoted = false then [] else c :: stripComment (if c = '"' then !quoted else quoted) cs

/-- Cut a text at every `sep` outside a quoted string. -/
def splitText (sep : Char) (quoted : Bool) (piece : List Char) : List Char → List (List Char)
  | [] => [piece.reverse]
  | c :: cs =>
    if c = sep ∧ quoted = false then piece.reverse :: splitText sep false [] cs
    else splitText sep (if c = '"' then !quoted else quoted) (c :: piece) cs

/-- Cut a text into lines, at every newline (R77: one command per line). DESIGN CHOICE (log 12): a double quote left open at
a line's end, in a string or in a comment, does not run on into the next line. -/
def splitLines (line : List Char) : List Char → List (List Char)
  | [] => [line.reverse]
  | c :: cs => if c = '\n' then line.reverse :: splitLines [] cs else splitLines (c :: line) cs

/-- A text without the blanks around it. -/
def trimText (cs : List Char) : List Char :=
  ((cs.dropWhile (· = ' ')).reverse.dropWhile (· = ' ')).reverse

/-- A digit of a number in base `base`. -/
def digitValue (base : Nat) (c : Char) : Option Nat :=
  let v :=
    if '0' ≤ c ∧ c ≤ '9' then some (c.toNat - 48)
    else if 'A' ≤ c ∧ c ≤ 'F' then some (c.toNat - 55)
    else if 'a' ≤ c ∧ c ≤ 'f' then some (c.toNat - 87)
    else none
  v.bind fun n => if n < base then some n else none

/-- The value of a run of digits after `acc`. -/
def digitsValue (base acc : Nat) : List Char → Option Nat
  | [] => some acc
  | c :: cs => (digitValue base c).bind fun d => digitsValue base (acc * base + d) cs

/-- A number, decimal or `0x` hexadecimal (R77). -/
def parseNumber : List Char → Option Nat
  | [] => none
  | '0' :: 'x' :: c :: cs => digitsValue 16 0 (c :: cs)
  | c :: cs => digitsValue 10 0 (c :: cs)

/-- A number below `2^width`, as the operand of that width. -/
def parseWord (width : Nat) (cs : List Char) : Option (BitVec width) :=
  (parseNumber (trimText cs)).bind fun n => if n < 2 ^ width then some (BitVec.ofNat width n) else none

/-- `nsamp`, which may carry a minus sign (R77): a signed 32-bit number. -/
def parseSigned (cs : List Char) : Option (BitVec 32) :=
  match trimText cs with
  | '-' :: ds => (parseNumber ds).bind fun n => if n ≤ 2 ^ 31 then some (0 - BitVec.ofNat 32 n) else none
  | ds => (parseNumber ds).bind fun n => if n < 2 ^ 31 then some (BitVec.ofNat 32 n) else none

/-- A hexadecimal byte pair (R77). -/
def parseHexByte : List Char → Option Byte
  | [a, b] => (digitsValue 16 0 [a, b]).map (BitVec.ofNat 8)
  | _ => none

/-- The bytes of an ASCII string, up to its closing quote, which ends the piece (R77); no closing quote is refused (log 12). -/
def parseQuoted : List Char → Option (List Byte)
  | [] => none
  | c :: cs =>
    if c = '"' then (if cs.isEmpty then some [] else none)
    else if c.toNat < 128 then (parseQuoted cs).map (BitVec.ofNat 8 c.toNat :: ·)
    else none

/-- One piece of a payload (R77): a quoted string, `N*XX`, or byte pairs separated by spaces. -/
def parsePiece (cs : List Char) : Option (List Byte) :=
  match trimText cs with
  | '"' :: body => parseQuoted body
  | text =>
    match splitText '*' false [] text with
    | [count, value] =>
      (parseNumber (trimText count)).bind fun n => (parseHexByte (trimText value)).map (List.replicate n)
    | _ => ((splitText ' ' false [] text).filter (! ·.isEmpty)).mapM parseHexByte

/-- A payload: pieces joined with `+` (R77); no text at all is the empty payload. -/
def parsePayload (cs : List Char) : Option (List Byte) :=
  if (trimText cs).isEmpty then some []
  else
    let pieces := splitText '+' false [] cs
    if pieces.any fun piece => (trimText piece).isEmpty then none else (pieces.mapM parsePiece).map List.flatten

/-- The register names of `RD` with their numbers (spec/10_state.md R12). -/
def registerNames : List (String × Nat) :=
  [("STATUS", 0x00), ("ERR", 0x01), ("ERRINFO", 0x02), ("ERROP", 0x03), ("CRC", 0x04), ("SERIAL", 0x05), ("SEQ", 0x06),
    ("GRAN", 0x07), ("FINAL", 0x08)]
    ++ [("PRESKIP", 0x09), ("NSAMP", 0x0A), ("SEGCNT", 0x0B), ("PAYLEN", 0x0C), ("PKTIDX", 0x0D), ("OUTLEN", 0x0E),
      ("NBF", 0x0F), ("SPF", 0x10), ("NSMP", 0x11)]

/-- `RD`'s operand: a register name or its number (R77). -/
def parseRegister (cs : List Char) : Option Byte :=
  match registerNames.find? fun r => r.1.toList == trimText cs with
  | some r => some (BitVec.ofNat 8 r.2)
  | none => parseWord 8 cs

/-- A command that takes no operand. -/
def noOperands (is : List Instr) (operands : List Char) : Option (List Instr) :=
  if (trimText operands).isEmpty then some is else none

/-- The mnemonic table of R67 and R78, each with the reading of its operands. -/
def assembleMnemonic (mnemonic : String) (operands : List Char) : Option (List Instr) :=
  match mnemonic with
  | "NOP" => noOperands [.nop] operands
  | "RST" => noOperands [.rst] operands
  | "RD" => (parseRegister operands).map fun r => [.rd r]
  | "CRC.CLR" => noOperands [.crcClr] operands
  | "CRC.UPD8" => (parseWord 8 operands).map fun b => [.crcUpd8 b]
  | "CRC.UPD" => (parsePayload operands).map fun d => [.crcUpd d]
  | "DUR.CALC" => (parsePayload operands).map fun d => [.durCalc d]
  | "STR.OPEN" =>
    match splitText ',' false [] operands with
    | [a, b, c] =>
      (parseWord 32 a).bind fun serial =>
        (parseWord 16 b).bind fun preskip => (parseSigned c).map fun nsamp => [.strOpen serial preskip nsamp]
    | _ => none
  | "PKT.HEAD" => (parsePayload operands).map fun d => [.pktHead d]
  | "PKT.TAGS" => (parsePayload operands).map fun d => [.pktTags d]
  | "PKT.AUD" => (parsePayload operands).map fun d => [.pktAud d]
  | "STR.FIN" => noOperands [.strFin] operands
  | "CRC.OF" => (parsePayload operands).map fun d => expandPseudo (.crcOf d)
  | "STR.ABORT" => noOperands (expandPseudo .strAbort) operands
  | "PKT.AUDN" =>
    match splitText ',' false [] operands with
    | [n, d] => (parseNumber (trimText n)).bind fun k => (parsePayload d).map fun p => expandPseudo (.pktAudN k p)
    | _ => none
  | _ => none

/-- One line: a mnemonic, a space, its operands; a line of blanks or comment holds no command (R77). -/
def assembleLine (line : List Char) : Option (List Instr) :=
  let text := trimText (stripComment false line)
  if text.isEmpty then some []
  else assembleMnemonic (String.ofList (text.takeWhile (· ≠ ' '))) (text.dropWhile (· ≠ ' '))

/-- One command per line (R77), each line read by itself. DESIGN CHOICE (log 12): a string whose closing quote is not on its
line is refused, and what a comment holds, a quote included, is no part of any command. -/
def assemble (text : List Char) : Option (List Instr) :=
  ((splitLines [] text).mapM assembleLine).map List.flatten

/-- The bytes a text assembles to; refused when a payload is too long for its `len` field (R65). -/
def assembleBytes (text : List Char) : Option (List Byte) :=
  (assemble text).bind fun is => if is.all Instr.wellFormed then some (is.flatMap encode) else none

end Sys2Proof.Machine
end

