-- ==== Sys2Proof/Tests/Slice0.lean ====
section
/-! SUPPORT. Tests of the model, each about one step or one small value; expected results are those of
spec/95_test_vectors.md (V-... and P... there) or of the rules' own examples. Then the witnesses: for every obligation with
hypotheses, a concrete state and operands that meet them together, clause by clause. -/

namespace Sys2Proof.Tests

open Sys2Proof Sys2Proof.Machine

/-- The next state of an outcome. -/
def nextOf : Result → Option State
  | .next s => some s
  | .fault _ => none
  | .refused _ => none

/-- One field of the next state. -/
def field {α : Type} (f : State → α) (r : Result) : Option α := (nextOf r).map f

/-- The example packet `HEAD` of section 5. -/
def headPacket : Packet :=
  [0x4F, 0x70, 0x75, 0x73, 0x48, 0x65, 0x61, 0x64, 0x01, 0x02, 0x38, 0x01, 0x80, 0xBB, 0x00, 0x00, 0x00, 0x00, 0x00]

/-- Page 0 of V-F8: an empty header packet, serial 1. -/
def firstPage : List Byte :=
  [0x4F, 0x67, 0x67, 0x53, 0x00, 0x02, 0x00, 0x00, 0x00, 0x00, 0x00, 0x00, 0x00, 0x00, 0x01, 0x00, 0x00, 0x00, 0x00, 0x00,
    0x00, 0x00, 0x29, 0xD6, 0x40, 0x21, 0x01, 0x00]

/-- Page 1 of V-F8: an empty tags packet, end of stream. -/
def lastTagsPage : List Byte :=
  [0x4F, 0x67, 0x67, 0x53, 0x00, 0x04, 0x00, 0x00, 0x00, 0x00, 0x00, 0x00, 0x00, 0x00, 0x01, 0x00, 0x00, 0x00, 0x01, 0x00,
    0x00, 0x00, 0xAE, 0x82, 0x78, 0xB4, 0x01, 0x00]

/-- After `STR.OPEN 1, 0, -1` from reset. -/
def opened : State := { State.reset with phase := .head, serial := 1, nsamp := 0xFFFFFFFF }

/-- After `STR.OPEN 1, 0, -1` and an empty `PKT.HEAD` (V-F8). -/
def headed : State := { opened with phase := .tags, crc := 0x2140D629, seq := 1, out := firstPage }

/-- After an empty `PKT.TAGS` as well: the tags page is held (V-F8). -/
def held : State := { headed with phase := .audio, tagpend := true, segtab := [0x00] }

/-- A state in `AUDIO` whose pending page is an audio page with 254 one-byte packets (V-F9, without its output). -/
def nearlyFull : State :=
  { opened with phase := .audio, seq := 2, segtab := List.replicate 254 0x01, payload := List.replicate 254 0xF8, gran := 243840 }

/-- A faulted block (V-X14). -/
def faulted : State := { State.reset with phase := .fault, err := 0x01, errop := 0x18 }

/-- A desynchronised block, with bytes that are never consumed (V-X4). -/
def desynced : State := { State.reset with phase := .fault, err := 0x05, errop := 0x03, desync := true, cmd := [0x02, 0x04] }

/-! ### Well-formedness: the one check refuses an ill-formed term of each command that carries a payload -/

theorem test_wf_refuses_long_crcUpd : (Instr.crcUpd (List.replicate (2 ^ 32) 0)).wellFormed = false := by
  simp only [Instr.wellFormed, Instr.payload, Config.lenWidth, List.length_replicate]; decide

theorem test_wf_refuses_long_durCalc : (Instr.durCalc (List.replicate (2 ^ 32) 0)).wellFormed = false := by
  simp only [Instr.wellFormed, Instr.payload, Config.lenWidth, List.length_replicate]; decide

theorem test_wf_refuses_long_pktHead : (Instr.pktHead (List.replicate (2 ^ 32) 0)).wellFormed = false := by
  simp only [Instr.wellFormed, Instr.payload, Config.lenWidth, List.length_replicate]; decide

theorem test_wf_refuses_long_pktTags : (Instr.pktTags (List.replicate (2 ^ 32) 0)).wellFormed = false := by
  simp only [Instr.wellFormed, Instr.payload, Config.lenWidth, List.length_replicate]; decide

theorem test_wf_refuses_long_pktAud : (Instr.pktAud (List.replicate (2 ^ 32) 0)).wellFormed = false := by
  simp only [Instr.wellFormed, Instr.payload, Config.lenWidth, List.length_replicate]; decide

theorem test_wf_accepts_longest : (Instr.crcUpd (List.replicate (2 ^ 32 - 1) 0)).wellFormed = true := by
  simp only [Instr.wellFormed, Instr.payload, Config.lenWidth, List.length_replicate]; decide

/-! ### Decoding: one word of every command, written out from R63 to R67 (section 7, V-E1 to V-E17) -/

theorem test_decode_nop : decode [0x00] = .command .nop [] := by decide
theorem test_decode_rst : decode [0x01] = .command .rst [] := by decide
theorem test_decode_rd : decode [0x02, 0x11] = .command (.rd 0x11) [] := by decide
theorem test_decode_crcClr : decode [0x10] = .command .crcClr [] := by decide
theorem test_decode_crcUpd8 : decode [0x11, 0x01] = .command (.crcUpd8 0x01) [] := by decide
theorem test_decode_crcUpd :
    decode [0x12, 0x04, 0x00, 0x00, 0x00, 0x4F, 0x67, 0x67, 0x53] = .command (.crcUpd [0x4F, 0x67, 0x67, 0x53]) [] := by decide
theorem test_decode_durCalc : decode [0x18, 0x02, 0x00, 0x00, 0x00, 0xFB, 0x06] = .command (.durCalc [0xFB, 0x06]) [] := by decide
theorem test_decode_strOpen :
    decode [0x20, 0xEE, 0xFF, 0xC0, 0x00, 0x38, 0x01, 0xD0, 0x07, 0x00, 0x00] = .command (.strOpen 0x00C0FFEE 312 2000) [] := by
  decide
theorem test_decode_pktHead : decode [0x21, 0x01, 0x00, 0x00, 0x00, 0x4F] = .command (.pktHead [0x4F]) [] := by decide
theorem test_decode_pktTags : decode [0x22, 0x00, 0x00, 0x00, 0x00] = .command (.pktTags []) [] := by decide
theorem test_decode_pktAud :
    decode [0x23, 0x03, 0x00, 0x00, 0x00, 0xF8, 0xFF, 0xFE, 0x24] = .command (.pktAud [0xF8, 0xFF, 0xFE]) [0x24] := by decide
theorem test_decode_strFin : decode [0x24] = .command .strFin [] := by decide

/-- V-E17, and the neighbours of every reserved range. -/
theorem test_decode_reserved :
    ([0x03, 0x0F, 0x13, 0x17, 0x19, 0x1F, 0x25, 0xFF] : List Byte).all (fun b => decode [b] == .illegal b) = true ∧
      ([0x02, 0x10, 0x12, 0x18, 0x20, 0x24] : List Byte).all (fun b => decode [b] != .illegal b) = true := by decide

/-- V-X6: an incomplete command. -/
theorem test_decode_incomplete : decode [0x12, 0x04, 0x00, 0x00, 0x00, 0x4F, 0x67] = .incomplete := by decide

/-- V-E10: the bytes of `STR.OPEN 0x12345678, 312, -1`. -/
theorem test_encode_strOpen :
    encode (.strOpen 0x12345678 312 (-1)) = [0x20, 0x78, 0x56, 0x34, 0x12, 0x38, 0x01, 0xFF, 0xFF, 0xFF, 0xFF] := by decide

/-- The opcode table's words, with operand bits zero. -/
theorem test_table_words :
    decodeTableWord 8 0x00 = some .nop ∧ decodeTableWord 8 0x02 = some (.rd 0) ∧ decodeTableWord 8 0x12 = some (.crcUpd []) ∧
      decodeTableWord 8 0x20 = some (.strOpen 0 0 0) ∧ decodeTableWord 16 0x0102 = some (.rd 1) ∧
      decodeTableWord 8 0x03 = none := by decide

/-! ### The checksum unit (section 2) -/

/-- V-C2, V-C4, V-C5, V-C7. -/
theorem test_crc_bytes :
    crcOgg [0x01] = 0x04C11DB7#32 ∧ crcOgg [0x80] = 0x690CE0EE#32 ∧ crcOgg [0xFF] = 0xB1F740B4#32 ∧
      crcOgg [0x01, 0x00] = 0xD219C1DC#32 := by decide

/-- V-C8, V-C9; V-C9 is not the zlib value CBF43926. -/
theorem test_crc_strings :
    crcOgg [0x4F, 0x67, 0x67, 0x53] = 0x5FB0A94F#32 ∧
      crcOgg [0x31, 0x32, 0x33, 0x34, 0x35, 0x36, 0x37, 0x38, 0x39] = 0x89A1897F#32 := by decide

theorem test_crcClr : field (·.crc) (exec .crcClr headed) = some 0 := by decide
theorem test_crcClr_dropped : exec .crcClr faulted = .next faulted := rfl

/-- V-C14. -/
theorem test_crcUpd8 :
    field (·.crc) (exec (.crcUpd8 0x00) { State.reset with crc := 0x5FB0A94F }) = some 0xF07159BA#32 := by decide

/-- V-C13. -/
theorem test_crcUpd : field (·.crc) (exec (.crcUpd [0x53]) { State.reset with crc := 0x992DB0EF }) = some 0x5FB0A94F#32 := by
  decide

/-! ### The duration unit (section 3) -/

/-- V-D1 to V-D9. -/
theorem test_nbSamples_celt :
    nbSamples [0xF8] = .ok ⟨1, 960, 960⟩ ∧ nbSamples [0xFA] = .ok ⟨2, 960, 1920⟩ ∧
      nbSamples [0xFB] = .error .malformedOpusPacket ∧ nbSamples [0xFB, 0xC6] = .ok ⟨6, 960, 5760⟩ ∧
      nbSamples [0xFB, 0x07] = .error .packetTooLong ∧ nbSamples [0x1B, 0x03] = .error .packetTooLong := by decide

/-- V-D11 to V-D19. -/
theorem test_nbSamples_others :
    nbSamples [0x19] = .ok ⟨2, 2880, 5760⟩ ∧ nbSamples [0x03, 0x00] = .ok ⟨0, 480, 0⟩ ∧
      nbSamples [0x83, 0x30] = .ok ⟨48, 120, 5760⟩ ∧ nbSamples [0x60] = .ok ⟨1, 480, 480⟩ ∧
      nbSamples [0x78] = .ok ⟨1, 960, 960⟩ ∧ nbSamples [] = .error .malformedOpusPacket ∧
      nbSamples [0x10] = .ok ⟨1, 1920, 1920⟩ := by decide

theorem test_durCalc :
    field (fun t => (t.nbf, t.spf, t.nsmp)) (exec (.durCalc [0xFB, 0x06]) State.reset) = some (6, 960, 5760) := by decide

/-- V-X14. -/
theorem test_durCalc_fault : exec (.durCalc [0xFB]) State.reset = .next faulted := rfl

/-! ### The system commands -/

theorem test_nop_in_fault : exec .nop faulted = .next faulted := rfl

/-- R141's example. -/
theorem test_rst : exec .rst faulted = .next State.reset := rfl

/-- V-F14: `NSAMP` = -2 is zero-extended; R13: `STATUS` of a held tags page. -/
theorem test_rd :
    field (·.rsp) (exec (.rd 0x0A) { opened with nsamp := 0xFFFFFFFE }) = some [0x00000000FFFFFFFE#64] ∧
      field (·.rsp) (exec (.rd 0x00) held) = some [0x0B#64] := by decide

/-- V-X5: `RD 0x12`. -/
theorem test_rd_reserved :
    field (fun t => (t.err, t.errinfo, t.errop, t.rsp)) (exec (.rd 0x12) State.reset) = some (0x06, 0x12, 0x02, []) := by
  decide

/-! ### The framer (sections 4 and 5) -/

/-- V-L1 to V-L8. -/
theorem test_lace :
    lace 0 = [0x00] ∧ lace 254 = [0xFE] ∧ lace 255 = [0xFF, 0x00] ∧ lace 256 = [0xFF, 0x01] ∧ lace 510 = [0xFF, 0xFF, 0x00] ∧
      segs 65024 = 255 ∧ segs 65025 = 256 := by decide

/-- V-L9, V-L10. -/
theorem test_unlace :
    (unlace [0x03, 0xFF, 0x00, 0x01] (List.replicate 259 0)).map List.length = [3, 255, 1] ∧ unlace [0x00] [] = [[]] := by
  decide +kernel

/-- V-F12. -/
theorem test_strOpen_final :
    field (fun t => (t.final, t.finalv, statusWord t)) (exec (.strOpen 5 65535 0x7FFFFFFF) State.reset) =
      some (0x8000FFFE, true, 0x11) := by decide

/-- V-X2. -/
theorem test_strOpen_twice :
    field (fun t => (t.err, t.errinfo, t.errop, t.serial)) (exec (.strOpen 2 0 0xFFFFFFFF) opened) = some (0x04, 1, 0x20, 1) := by
  decide

/-- V-F8, page 0. -/
theorem test_pktHead_empty : field (fun t => (t.out, t.crc, t.phase)) (exec (.pktHead []) opened) = some (firstPage, 0x2140D629, .tags) := by
  decide

/-- R118's example: the header of a 47-byte page; its checksum is 3EB0EC23. -/
theorem test_pktHead_example :
    field (fun t => (t.out.take 28, t.crc, t.seq, t.outlen))
        (exec (.pktHead headPacket) { opened with serial := 0x12345678 }) =
      some ([0x4F, 0x67, 0x67, 0x53, 0x00, 0x02, 0x00, 0x00, 0x00, 0x00, 0x00, 0x00, 0x00, 0x00, 0x78, 0x56, 0x34, 0x12, 0x00,
        0x00, 0x00, 0x00, 0x23, 0xEC, 0xB0, 0x3E, 0x01, 0x13], 0x3EB0EC23, 1, 47) := by decide

/-- V-F8: the tags page is held. -/
theorem test_pktTags : field (fun t => (t.segtab, t.tagpend, t.phase, t.out)) (exec (.pktTags []) headed) =
    some ([0x00], true, .audio, firstPage) := by decide

/-- V-F10: a packet of 254 bytes joins a page with one segment left. -/
theorem test_pktAud_joins :
    field (fun t => (t.segcnt, t.paylen, t.gran, t.outlen, t.seq))
      (exec (.pktAud (0xF8 :: List.replicate 253 0)) nearlyFull) = some (255, 508, 244800, 0, 2) := by decide +kernel

/-- V-F8: `STR.FIN` with no audio packet. -/
theorem test_strFin_no_audio :
    field (fun t => (t.out, t.crc, t.phase)) (exec .strFin held) = some (firstPage ++ lastTagsPage, 0xB47882AE, .done) := by
  decide +kernel

/-- V-X3: `STR.FIN` before `PKT.TAGS` withdraws the head page. -/
theorem test_strFin_early :
    field (fun t => (t.err, t.errinfo, t.errop, t.out, t.seq)) (exec .strFin headed) = some (0x04, 2, 0x24, [], 1) := by
  decide

/-! ### Steps -/

/-- V-X4: byte 03 is consumed, the bytes after it never are. -/
theorem test_step_illegal :
    field (fun t => (t.err, t.errop, statusWord t, t.cmd)) (step { State.reset with cmd := [0x03, 0x02, 0x04] }) =
      some (0x05, 0x03, 0x25, [0x02, 0x04]) := by decide

/-- Log 12: a quote left open on one line, in a comment or in a string, does not reach the next line. -/
theorem test_assemble_open_quote :
    assembleBytes "NOP ; say \"\nRST".toList = some [0x00, 0x01] ∧ assembleBytes "CRC.UPD \"a\nRST".toList = none := by
  decide

/-- A reachable state with a page in `OUT` is one that the host's bytes lead to, not only the reset state. -/
theorem witness_ReachableStatesMeetInvariants :
    Reachable none (State.resetWith none) ∧ Reachable none ((State.resetWith none).send (encode (.strOpen 1 0 0))) :=
  ⟨.reset, .event (.send _) _ _ .reset rfl⟩

/-! ### Witnesses: the hypotheses of each obligation are met together -/

/-- `held`, a state in `AUDIO` with one page out and the tags page pending, meets the block's invariant. -/
theorem held_blockInv : BlockInv held where
  segcnt_le := by decide
  paylen_eq := by decide
  no_packet := by decide
  closed := by
    intro v hv
    have : (0x00 : Byte) = v := by simpa [held] using hv
    subst this
    decide
  resting := by decide
  pending := by decide
  tags_held := by decide
  none_counted := by decide
  fault_recorded := by decide
  no_output := by decide
  desync_faulted := by decide
  out_fits := by decide
  final_known := by decide
  durations := by decide

/-- `opened` meets the invariants that R118's corner case needs. -/
theorem witness_PktHeadEmitsFirstPage_invariants :
    opened.phase = .head ∧ fitsSize (opened.outlen + 27 + segs 0 + 0) opened.outCap = true ∧ BlockInv opened ∧ PagesInv opened :=
  ⟨rfl, by decide,
    { segcnt_le := by decide, paylen_eq := by decide, no_packet := by decide, closed := by simp [opened, State.reset, State.resetWith],
      resting := by decide, pending := by decide, tags_held := by decide, none_counted := by decide, fault_recorded := by decide, no_output := by decide,
      desync_faulted := by decide, out_fits := by decide, final_known := by decide, durations := by decide },
    [], rfl, by decide, by decide, by decide, by decide⟩

theorem held_pages : pagesOf held.out = some [firstPage] := by decide

/-- A predicate of every page of `held` is one of its one page. -/
theorem held_page_of {k : Nat} {page : List Byte} (h : [firstPage][k]? = some page) : k = 0 ∧ page = firstPage := by
  cases k with
  | zero => exact ⟨rfl, by simpa using h.symm⟩
  | succ k => simp at h

/-- `held` meets the invariants of the output stream as well. -/
theorem held_streamInv : StreamInv held := by
  refine ⟨⟨_, held_pages, by decide, by decide, by decide, by decide⟩, ⟨_, held_pages, ?_⟩, ⟨_, held_pages, ?_⟩,
    ⟨_, held_pages, ?_⟩, ⟨_, held_pages, ?_, ?_, by decide⟩⟩
  · intro page hp
    obtain rfl : page = firstPage := by simpa using hp
    decide
  · intro page hp
    obtain rfl : page = firstPage := by simpa using hp
    decide
  · intro k page h
    obtain ⟨rfl, rfl⟩ := held_page_of h
    decide
  · intro k page h _
    obtain ⟨rfl, rfl⟩ := held_page_of h
    decide
  · intro k page h h2
    obtain ⟨rfl, rfl⟩ := held_page_of h
    exact absurd h2 (by decide)

/-- For the six statements StepKeeps…: `held` with a whole command in `CMD`; the step emits page 1. -/
theorem witness_StepKeepsInvariants (c : List Byte) (hc : c = encode (.pktAud [0xF8]) ∨ c = [0x24]) :
    (nextOf (step { held with cmd := c })).isSome = true ∧ BlockInv { held with cmd := c } ∧ StreamInv { held with cmd := c } := by
  refine ⟨?_, ⟨held_blockInv.1, held_blockInv.2, held_blockInv.3, held_blockInv.4, held_blockInv.5, held_blockInv.6,
    held_blockInv.7, held_blockInv.8, held_blockInv.9, held_blockInv.10, held_blockInv.11, held_blockInv.12,
    held_blockInv.13, held_blockInv.14⟩, held_streamInv⟩
  rcases hc with rfl | rfl <;> decide

theorem witness_HostActsKeepInvariants :
    Event.hardReset ≠ .step ∧ Event.takeResponse ≠ .step ∧ Event.send [0x00] ≠ .step ∧
      eventOutcome (.send [0x00]) held = .next (held.send [0x00]) ∧ BlockInv held ∧ StreamInv held :=
  ⟨by decide, by decide, by decide, rfl, held_blockInv, held_streamInv⟩

/-- `headed` meets the invariants that R119's `SEQ` (= 1) needs, and a packet of either end of the range fits. -/
theorem witness_PktTagsHoldsSecondPage_invariants :
    headed.phase = .tags ∧ ([] : Packet).length ≤ 65024 ∧ BlockInv headed ∧ PagesInv headed :=
  ⟨rfl, by decide,
    { segcnt_le := by decide, paylen_eq := by decide, no_packet := by decide,
      closed := by simp [headed, opened, State.reset, State.resetWith], resting := by decide, pending := by decide,
      tags_held := by decide, none_counted := by decide, fault_recorded := by decide, no_output := by decide,
      desync_faulted := by decide, out_fits := by decide, final_known := by decide, durations := by decide },
    _, held_pages, by decide, by decide, by decide, by decide⟩

/-- `held` after `PKT.AUD F8`: the tags page is out, an audio page is pending. -/
def playing : State :=
  { held with
    tagpend := false, seq := 2, out := firstPage ++ finishedPage 0x00 0 1 1 [0x00] [], segtab := [0x01], payload := [0xF8]
    gran := 960, pktidx := 1, nbf := 1, spf := 960, nsmp := 960 }

theorem playing_pages : pagesOf playing.out = some [firstPage, finishedPage 0x00 0 1 1 [0x00] []] := by decide

theorem playing_blockInv : BlockInv playing where
  segcnt_le := by decide
  paylen_eq := by decide
  no_packet := by decide
  closed := by
    intro v hv
    have : (0x01 : Byte) = v := by simpa [playing] using hv
    subst this
    decide
  resting := by decide
  pending := by decide
  tags_held := by decide
  none_counted := by decide
  fault_recorded := by decide
  no_output := by decide
  desync_faulted := by decide
  out_fits := by decide
  final_known := by decide
  durations := by decide

/-- Both cases of R121's corner case: `held` has no audio packet, `playing` has one. -/
theorem witness_StrFinEmitsLastPage_invariants :
    (held.phase = .audio ∧ held.tagpend = true ∧ BlockInv held ∧ PagesInv held) ∧
      (playing.phase = .audio ∧ playing.tagpend = false ∧ BlockInv playing ∧ PagesInv playing) ∧
      fitsSize (playing.outlen + 27 + playing.segcnt + playing.paylen) playing.outCap = true :=
  ⟨⟨rfl, rfl, held_blockInv, held_streamInv.1⟩,
    ⟨rfl, rfl, playing_blockInv, _, playing_pages, by decide, by decide, by decide, by decide⟩, by decide⟩

/-- R121: the pages of the stream after `STR.FIN` in each case, two with no audio packet and three with one. -/
theorem test_strFin_page_count :
    field (fun t => (pagesOf t.out).map List.length) (exec .strFin held) = some (some 2) ∧
      field (fun t => (pagesOf t.out).map fun pages => (pages.length, packetsOf (pages.drop 2))) (exec .strFin playing) =
        some (some (3, [[0xF8]])) := by decide

theorem witness_SpacesStayWithinTheirSizes : BlockInv held := held_blockInv

theorem witness_DecodeOfEncode :
    (Instr.crcUpd []).wellFormed = true ∧ (Instr.strOpen 0xFFFFFFFF 0xFFFF 0x80000000).wellFormed = true ∧
      (Instr.pktAud (List.replicate (2 ^ 32 - 1) 0)).wellFormed = true := by
  refine ⟨by decide, by decide, ?_⟩
  simp only [Instr.wellFormed, Instr.payload, Config.lenWidth, List.length_replicate]; decide

theorem witness_DecodedCommandIsItsEncoding : decode [0x22, 0x01, 0x00, 0x00, 0x00, 0x24, 0x24] = .command (.pktTags [0x24]) [0x24] := by
  decide

theorem witness_IncompleteCommandHasNoEffect :
    (Instr.crcUpd [1, 2]).wellFormed = true ∧ encode (.crcUpd [1, 2]) = [0x12, 0x02] ++ [0x00, 0x00, 0x00, 0x01, 0x02] ∧
      ([0x00, 0x00, 0x00, 0x01, 0x02] : List Byte) ≠ [] := by decide

/-- Every format; format B with the empty payload and with a `len` above one byte. -/
theorem witness_CommandLengthsAreFixed :
    decode [0x24, 0x00] = .command .strFin [0x00] ∧ decode [0x11, 0x00] = .command (.crcUpd8 0x00) [] ∧
      decode (encode (.strOpen 1 2 3)) = .command (.strOpen 1 2 3) [] ∧
      decode (encode (.pktHead [7])) = .command (.pktHead [7]) [] ∧ decode (encode (.durCalc [])) = .command (.durCalc []) [] ∧
      decode (0x12 :: 0x00 :: 0x01 :: 0x00 :: 0x00 :: List.replicate 257 5) = .command (.crcUpd (List.replicate 256 5)) [5] ∧
      held.desync = false := by decide +kernel

theorem witness_StepRunsDecodedCommand :
    State.reset.desync = false ∧ decode ({ State.reset with cmd := [0x10, 0x24] } : State).cmd = .command .crcClr [0x24] := by decide

theorem witness_IllegalOpcodeStopsDecoder :
    held.desync = false ∧ held.phase ≠ .fault ∧ faulted.desync = false ∧ faulted.phase = .fault ∧ desynced.desync = true ∧
      (0x03 : Byte).toNat ∉ [0x00, 0x01, 0x02, 0x10, 0x11, 0x12, 0x18, 0x20, 0x21, 0x22, 0x23, 0x24] ∧
      (0xFF : Byte).toNat ∉ [0x00, 0x01, 0x02, 0x10, 0x11, 0x12, 0x18, 0x20, 0x21, 0x22, 0x23, 0x24] := by decide

theorem witness_OnlyHardwareResetResynchronises :
    desynced.desync = true ∧ eventOutcome .step desynced = .next desynced ∧
      eventOutcome .hardReset desynced = .next State.reset ∧
      eventOutcome (.send [0x01]) desynced = .next { desynced with cmd := [0x02, 0x04, 0x01] } := ⟨rfl, rfl, rfl, rfl⟩

theorem witness_StepsRunCommandsInOrder :
    (∀ i ∈ [Instr.crcClr, .crcUpd8 1, .rd 4], i.wellFormed = true) ∧ State.reset.desync = false ∧
      [0x10, 0x11, 0x01, 0x02, 0x04, 0x00] = [Instr.crcClr, .crcUpd8 1, .rd 4].flatMap encode ++ [0x00] := by decide

theorem witness_CrcIsLinear : ([0x01, 0x02] : List Byte).length = ([0xFF, 0x80] : List Byte).length := by decide

theorem witness_CrcClrAndUpd8WriteCrcOnly : held.phase ≠ .fault ∧ faulted.phase = .fault := by decide

theorem witness_CrcUpdIsSuccessiveUpd8 : opened.phase ≠ .fault ∧ desynced.phase = .fault := by decide

theorem witness_CrcOfRespondsWithChecksum : ({ held with crc := 0xFFFFFFFF } : State).phase ≠ .fault := by decide

theorem witness_FrameCountByCode :
    (0xF8 : Byte).toNat % 4 = 0 ∧ (0xF9 : Byte).toNat % 4 = 1 ∧ (0xFA : Byte).toNat % 4 = 2 ∧ (0xFB : Byte).toNat % 4 = 3 := by
  decide

theorem witness_PacketDuration :
    nbFrames [] = none ∧ nbFrames [0xFB, 0x07] = some 7 ∧ 5760 < 7 * samplesPerFrame 0xFB 48000 ∧
      nbFrames [0xFB, 0x06] = some 6 ∧ 6 * samplesPerFrame 0xFB 48000 ≤ 5760 ∧ nbSamples [0xFB, 0x06] = .ok ⟨6, 960, 5760⟩ := by
  decide

theorem witness_DurCalcMeasuresPacket :
    State.reset.phase ≠ .fault ∧ faulted.phase = .fault ∧ nbSamples [0x83, 0x30, 0x55] = .ok ⟨48, 120, 5760⟩ ∧
      nbSamples [0x83, 0x31] = .error .packetTooLong ∧ nbSamples [0x83] = .error .malformedOpusPacket ∧ nbSamples [] = .error .malformedOpusPacket := by decide

/-- A cell that names a phase, by the command's success and by its own fault; a `Seq` cell; a `drop` cell. -/
theorem witness_PhaseTableIsComplete :
    phaseTable .pktAud held.phase = .leadsTo .audio ∧ field (·.phase) (exec (.pktAud [0xF8]) held) = some .audio ∧
      field (fun t => (t.phase, t.err)) (exec (.pktAud [0xFB]) held) = some (.fault, faultByte .malformedOpusPacket) ∧
      phaseTable .strFin headed.phase = .sequenceError ∧ phaseTable .strFin faulted.phase = .drop := by decide

theorem witness_NopChangesNothing :
    State.reset.desync = false ∧ ([0x00, 0x00, 0x24] : List Byte) = List.replicate 2 0x00 ++ [0x24] := by decide

theorem witness_RdRespondsWithRegister : Memory.wf held = true ∧ Memory.wf nearlyFull = true := by decide +kernel

theorem witness_RdOfReservedNumberFaults :
    0x12 ≤ (0x12 : Byte).toNat ∧ 0x12 ≤ (0xFF : Byte).toNat ∧ held.phase ≠ .fault ∧ faulted.phase = .fault := by decide

theorem witness_StatusLayout :
    fetchCommand { held with cmd := [0x02, 0x00] } = .command (.rd 0x00) [] ∧
      field (·.rsp) (step { held with cmd := [0x02, 0x00] }) = some [0x0B#64] := by decide

theorem witness_PageLayoutByOffset : (List.replicate 255 (0x01 : Byte)).length ≤ 255 := by simp only [List.length_replicate]; omega

theorem witness_StrOpenBeginsStream :
    State.reset.phase = .idle ∧ ({ held with phase := .done } : State).phase = .done ∧ opened.phase = .head ∧
      headed.phase = .tags ∧ held.phase = .audio ∧ faulted.phase = .fault ∧ 0 < (1 : BitVec 32).toInt ∧
      0 < (0x7FFFFFFF : BitVec 32).toInt ∧ (0 : BitVec 32).toInt ≤ 0 ∧ (0x80000000 : BitVec 32).toInt ≤ 0 := by decide

theorem witness_PktHeadEmitsFirstPage :
    opened.phase = .head ∧ (State.reset.phase ≠ .fault ∧ State.reset.phase ≠ .head) ∧
      65025 ≤ (List.replicate 65025 (0 : Byte)).length ∧ (List.replicate 65024 (0 : Byte)).length ≤ 65024 ∧
      fitsSize (opened.outlen + 27 + segs 19 + 19) (some 46) = false ∧
      fitsSize (opened.outlen + 27 + segs 19 + 19) (some 47) = true := by
  refine ⟨rfl, by decide, ?_, ?_, by decide, by decide⟩ <;> simp only [List.length_replicate] <;> omega

theorem witness_PktTagsHoldsSecondPage :
    headed.phase = .tags ∧ (held.phase ≠ .fault ∧ held.phase ≠ .tags) ∧ 65025 ≤ (List.replicate 65025 (0 : Byte)).length ∧
      (List.replicate 65024 (0 : Byte)).length ≤ 65024 := by
  refine ⟨rfl, by decide, ?_, ?_⟩ <;> simp only [List.length_replicate] <;> omega

theorem witness_PktAudPlacesPacket :
    held.phase = .audio ∧ held.tagpend = true ∧ nearlyFull.phase = .audio ∧ nearlyFull.tagpend = false ∧
      ¬ (nearlyFull.tagpend = true ∨ 255 < nearlyFull.segcnt + segs 254) ∧ 255 < nearlyFull.segcnt + segs 255 ∧
      nbSamples [0xF8] = .ok ⟨1, 960, 960⟩ ∧ nbSamples [0xFB] = .error .malformedOpusPacket ∧
      fitsSize (held.outlen + 27 + held.segcnt + held.paylen) (some 55) = false ∧
      fitsSize (held.outlen + 27 + held.segcnt + held.paylen) (some 56) = true := by decide +kernel

theorem witness_StrFinEmitsLastPage :
    held.phase = .audio ∧ (headed.phase ≠ .fault ∧ headed.phase ≠ .audio) ∧ faulted.phase = .fault ∧
      fitsSize (held.outlen + 27 + held.segcnt + held.paylen) (some 55) = false ∧
      fitsSize (held.outlen + 27 + held.segcnt + held.paylen) held.outCap = true := by decide

/-- One state for each disjunct: a command's fault, and the decoder's. -/
theorem witness_FaultEntryIsPrecise :
    held.phase ≠ .fault ∧ field (·.phase) (step { held with cmd := [0x02, 0x12] }) = some .fault ∧
      field (·.phase) (step { held with cmd := [0x25] }) = some .fault := by decide

theorem witness_FaultPhaseDropsCommands :
    faulted.phase = .fault ∧ fetchCommand { faulted with cmd := [0x01, 0x24] } = .command .rst [0x24] ∧
      fetchCommand { faulted with cmd := [0x02, 0x11] } = .command (.rd 0x11) [] ∧
      fetchCommand { faulted with cmd := [0x02, 0x12] } = .command (.rd 0x12) [] ∧
      fetchCommand { faulted with cmd := [0x24] } = .command .strFin [] := by decide

/-- After V-F8's `STR.FIN`. -/
def finished : State :=
  { held with phase := .done, tagpend := false, segtab := [], seq := 2, crc := 0xB47882AE, out := firstPage ++ lastTagsPage }

theorem finished_blockInv : BlockInv finished where
  segcnt_le := by decide
  paylen_eq := by decide
  no_packet := by decide
  closed := by simp [finished]
  resting := by decide
  pending := by decide
  tags_held := by decide
  none_counted := by decide
  fault_recorded := by decide
  no_output := by decide
  desync_faulted := by decide
  out_fits := by decide
  final_known := by decide
  durations := by decide

theorem witness_FaultRecordIsSticky_done : BlockInv finished ∧ finished.phase = .done := ⟨finished_blockInv, rfl⟩

theorem witness_FaultRecordIsSticky :
    faulted.phase = .fault ∧ (nextOf (eventOutcome .step { faulted with cmd := [0x03] })).isSome = true := by decide

theorem witness_RegistersChangeOnlyByTheirWriters :
    Instr.pktTags [] ≠ .rst ∧ field (·.phase) (exec (.pktTags []) headed) = some .audio ∧
      mayWriteCrc (Instr.pktTags []).opcode = false ∧ mayWriteDuration (Instr.pktTags []).opcode = false ∧
      mayWriteSeq (Instr.pktTags []).opcode = false ∧ mayWriteCounts (Instr.pktTags []).opcode = false ∧
      mayWritePending (Instr.durCalc []).opcode = false ∧ (Instr.pktTags []).opcode ≠ .strOpen := by decide

theorem witness_OutIsAppendOnly :
    Instr.strFin ≠ .rst ∧ Instr.strFin.opcode ≠ .strOpen ∧
      field (fun t => (t.phase, t.outlen)) (exec .strFin held) = some (.done, 56) ∧ held.outlen = 28 := by decide

theorem witness_CommandsStoreOnlyAtTheEnd :
    field (fun t => (t.phase, t.seq)) (exec (.pktTags [0xAB]) headed) = some (.audio, headed.seq) ∧
      field (fun t => (t.phase, t.seq)) (exec (.pktAud [0xF8]) nearlyFull) = some (.audio, nearlyFull.seq) ∧
      field (fun t => (t.phase, t.seq)) (exec (.crcUpd8 1) held) = some (.audio, held.seq) := by decide +kernel

theorem witness_HostReadsOutputOnlyWhenDone :
    ({ held with phase := .done } : State).phase = .done ∧ held.phase ≠ .done ∧
      (Instr.strOpen 1 0 0).opcode = .strOpen ∧
      (nextOf (exec (.strOpen 1 0 0) { held with phase := .done })).isSome = true := by decide

/-- A stream of one audio packet, within a capacity that it fills exactly. -/
theorem witness_StreamEqualsBatchMuxer :
    State.reset.phase = .idle ∧ ([] : Packet).length ≤ 65024 ∧
      (∀ p ∈ ([[0xF8]] : List Packet), p.length ≤ 65024 ∧ ∃ d, nbSamples p = .ok d) ∧
      fitsSize (muxBatch 1 0 0 [] [] [[0xF8]]).length (some 85) = true ∧
      fitsSize (muxBatch 1 0 0 [] [] [[0xF8]]).length (some 84) = false := by
  refine ⟨rfl, by decide, ?_, by decide, by decide⟩
  intro p hp
  obtain rfl : p = [0xF8] := by simpa using hp
  exact ⟨by decide, ⟨1, 960, 960⟩, by decide⟩

theorem witness_FinishedStreamHoldsItsPackets :
    field (·.phase) (execAll (streamCommands 1 0 0 [] [] [[0xF8]]) State.reset) = some .done := by decide

theorem witness_OutputIndependentOfHistory :
    readyForStream State.reset.phase = true ∧ readyForStream ({ held with phase := .done } : State).phase = true ∧
      State.reset.outCap = ({ held with phase := .done } : State).outCap ∧ State.reset ≠ { held with phase := .done } := by decide

/-! ### The two tests that take the kernel longest: proofs by the kernel after them would wait for it -/

/-- R77's examples, and P1's bytes. -/
theorem test_assemble :
    assembleBytes "CRC.UPD \"OggS\"".toList = some [0x12, 0x04, 0x00, 0x00, 0x00, 0x4F, 0x67, 0x67, 0x53] ∧
      assembleBytes "STR.OPEN 0x12345678, 312, -1".toList =
        some [0x20, 0x78, 0x56, 0x34, 0x12, 0x38, 0x01, 0xFF, 0xFF, 0xFF, 0xFF] ∧
      assembleBytes "RD CRC ; a comment\nPKT.AUD F8 FF FE".toList = some [0x02, 0x04, 0x23, 0x03, 0x00, 0x00, 0x00, 0xF8, 0xFF, 0xFE] ∧
      assembleBytes "CRC.OF 01".toList = some [0x10, 0x12, 0x01, 0x00, 0x00, 0x00, 0x01, 0x02, 0x04] := by decide +kernel

/-- V-F11: a packet of 255 bytes does not; the page emitted has granule 243840, sequence number 2, checksum AA8748D2 and 254 segments. -/
theorem test_pktAud_flushes :
    field (fun t => (t.segtab, t.gran, t.crc, t.outlen, t.out.take 27))
        (exec (.pktAud (0xF8 :: List.replicate 254 0)) nearlyFull) =
      some ([0xFF, 0x00], 244800, 0xAA8748D2, 535, [0x4F, 0x67, 0x67, 0x53, 0x00, 0x00, 0x80, 0xB8, 0x03, 0x00, 0x00, 0x00, 0x00,
        0x00, 0x01, 0x00, 0x00, 0x00, 0x02, 0x00, 0x00, 0x00, 0xD2, 0x48, 0x87, 0xAA, 0xFE]) := by decide +kernel

end Sys2Proof.Tests
end

namespace Sys2Proof.Machine

/-! ### The acts of the host, and the invariants (R3, R30)

The two streams are no part of R10's state, and no invariant reads them; an empty `OUT` outside an open stream meets every
invariant of the output stream. -/

/-- Everything an act of the host can do: change the two streams, or reset the block and leave `RSP` (R3, R180). -/
theorem hostAct_cases {e : Event} {s t : State} (he : e ≠ .step) (h : eventOutcome e s = .next t) :
    (∃ cmd rsp, t = { s with cmd := cmd, rsp := rsp }) ∨
      ∃ cmd rsp, t = { State.resetWith s.outCap with cmd := cmd, rsp := rsp } := by
  cases e with
  | step => exact absurd rfl he
  | send bytes => cases h; exact .inl ⟨s.cmd ++ bytes, s.rsp, rfl⟩
  | takeResponse => cases h; exact .inl ⟨s.cmd, s.rsp.tail, rfl⟩
  | hardReset => cases h; exact .inr ⟨[], s.rsp, rfl⟩

/-- The block's invariant does not read the two streams. -/
theorem BlockInv.withStreams {s : State} (h : BlockInv s) (cmd : List Byte) (rsp : List (BitVec 64)) :
    BlockInv { s with cmd := cmd, rsp := rsp } :=
  { h with }

/-- Nor do the invariants of the output stream. -/
theorem StreamInv.withStreams {s : State} (h : StreamInv s) (cmd : List Byte) (rsp : List (BitVec 64)) :
    StreamInv { s with cmd := cmd, rsp := rsp } :=
  h

/-- The empty output is a stream of no page. -/
@[simp] theorem pagesOf_nil : pagesOf [] = some [] := rfl

/-- Outside an open or finished stream the block is in `IDLE` or `FAULT`. -/
theorem streamPhase_eq_false_iff {p : Phase} : streamPhase p = false ↔ p = .idle ∨ p = .fault := by
  cases p <;> decide

theorem pagesInv_of_out_nil {s : State} (hout : s.out = []) (hphase : streamPhase s.phase = false) : PagesInv s := by
  refine ⟨[], by simp [hout], ?_⟩
  obtain hp | hp := streamPhase_eq_false_iff.1 hphase
  · simp [hp, streamPhase]
  · simp [hp, streamPhase]

theorem checksumInv_of_out_nil {s : State} (hout : s.out = []) : ChecksumInv s :=
  ⟨[], by simp [hout], by simp⟩

theorem lacingInv_of_out_nil {s : State} (hout : s.out = []) : LacingInv s :=
  ⟨[], by simp [hout], by simp⟩

theorem sequenceInv_of_out_nil {s : State} (hout : s.out = []) : SequenceInv s :=
  ⟨[], by simp [hout], by simp⟩

theorem granuleInv_of_out_nil {s : State} (hout : s.out = []) (hphase : streamPhase s.phase = false) : GranuleInv s :=
  ⟨[], by simp [hout], by simp, by simp, by simp [hphase]⟩

/-- With no page in `OUT` and no stream open or finished, the output stream's invariants hold (R29, R30 (j)). -/
theorem streamInv_of_out_nil {s : State} (hout : s.out = []) (hphase : streamPhase s.phase = false) : StreamInv s :=
  ⟨pagesInv_of_out_nil hout hphase, checksumInv_of_out_nil hout, lacingInv_of_out_nil hout, sequenceInv_of_out_nil hout,
    granuleInv_of_out_nil hout hphase⟩

/-- The reset state meets the block's invariant, whatever the capacity (R33). -/
theorem resetWith_blockInv (cap : Option Nat) : BlockInv (State.resetWith cap) where
  segcnt_le := Nat.zero_le _
  paylen_eq := rfl
  no_packet := ⟨iff_of_true rfl rfl, fun _ => rfl⟩
  closed := nofun
  resting := fun _ => ⟨rfl, rfl⟩
  pending := nofun
  tags_held := nofun
  none_counted := fun _ => rfl
  fault_recorded := iff_of_true rfl nofun
  no_output := fun _ => rfl
  desync_faulted := nofun
  out_fits := by cases cap <;> simp [State.resetWith, State.outlen, fitsSize]
  final_known := ⟨rfl, rfl⟩
  durations := ⟨Nat.zero_le _, List.mem_cons_self, Nat.zero_le _, rfl⟩

/-- The reset state has no output, so the output stream's invariants hold (R33). -/
theorem resetWith_streamInv (cap : Option Nat) : StreamInv (State.resetWith cap) :=
  streamInv_of_out_nil rfl rfl

/-- Settles O54: an act of the host changes only the two streams, or leads to the reset state but for them. -/
theorem hostActsKeepInvariants : Obligations.HostActsKeepInvariants := by
  intro e s t he hblock hstream hact
  obtain ⟨cmd, rsp, rfl⟩ | ⟨cmd, rsp, rfl⟩ := hostAct_cases he hact
  · exact ⟨hblock.withStreams cmd rsp, hstream.withStreams cmd rsp⟩
  · exact ⟨(resetWith_blockInv s.outCap).withStreams cmd rsp, (resetWith_streamInv s.outCap).withStreams cmd rsp⟩

end Sys2Proof.Machine

namespace Sys2Proof.Machine

/-! ### What a command can do

`Effect s i t` says once, guard by guard, everything a command can do. The proofs about `exec` below split on it and do not
unfold a meaning again. -/

/-- The command `i` executed in state `s` leads to `t`: one constructor for each end that a meaning has. -/
inductive Effect (s : State) : Instr → State → Prop
  | nop : Effect s .nop s
  | rst : Effect s .rst (softReset s)
  | responded (reg : Byte) (v : BitVec 64) (hreg : readReg reg s = some v) : Effect s (.rd reg) (respond v s)
  /-- R162. `NOP` and `RST` are never dropped; `RD` is where its register is reserved. -/
  | dropped (i : Instr) (hphase : s.phase = .fault) (hrst : i ≠ .rst) : Effect s i s
  /-- R160: one of the faults that R150 lets the command raise, `SequenceError` exactly where R15 says so. -/
  | faulted (i : Instr) (f : FaultCode) (hphase : s.phase ≠ .fault) (hmay : mayRaise f i.opcode = true)
      (hseq : f = .sequenceError ↔ phaseTable i.opcode s.phase = .sequenceError) :
      Effect s i (enterFault f (faultInfo f i s) (opcodeByte i.opcode) s)
  | crcCleared (hphase : s.phase ≠ .fault) : Effect s .crcClr (setCrc Config.crcInit s)
  | crcStepped (imm8 : Byte) (hphase : s.phase ≠ .fault) : Effect s (.crcUpd8 imm8) (setCrc (crcStep s.crc imm8) s)
  | crcFolded (data : List Byte) (hphase : s.phase ≠ .fault) : Effect s (.crcUpd data) (setCrc (crcFold s.crc data) s)
  | measured (data : Packet) (d : Duration) (hphase : s.phase ≠ .fault) (hd : nbSamples data = .ok d) :
      Effect s (.durCalc data) (setDuration d s)
  | opened (serial : BitVec 32) (preskip : BitVec 16) (nsamp : BitVec 32) (hphase : s.phase = .idle ∨ s.phase = .done) :
      Effect s (.strOpen serial preskip nsamp) (openStream serial preskip nsamp s)
  | headEmitted (data : Packet) (hphase : s.phase = .head) (hsegs : segs data.length ≤ Config.maxSegs)
      (hfits : outFits (Config.hdrLen + segs data.length + data.length) s = true) :
      Effect s (.pktHead data) (setPhase .tags (emitPage pageFlagsBos 0 (appendPacket data s)))
  | tagsHeld (data : Packet) (hphase : s.phase = .tags) (hsegs : segs data.length ≤ Config.maxSegs) :
      Effect s (.pktTags data) (setPhase .audio (holdTagsPage (appendPacket data s)))
  /-- R114: the packet joins the pending page. -/
  | audioJoined (data : Packet) (d : Duration) (hphase : s.phase = .audio) (hd : nbSamples data = .ok d)
      (htag : s.tagpend = false) (hsegs : s.segcnt + segs data.length ≤ Config.maxSegs) :
      Effect s (.pktAud data) (countPacket d.n (appendPacket data (setDuration d s)))
  /-- R114: the pending page is emitted first. -/
  | audioFlushed (data : Packet) (d : Duration) (hphase : s.phase = .audio) (hd : nbSamples data = .ok d)
      (hsegs : segs data.length ≤ Config.maxSegs) (hfits : pageFits s = true) :
      Effect s (.pktAud data)
        (countPacket d.n (appendPacket data (emitPending pageFlagsNone s.gran (setDuration d s))))
  | finished (hphase : s.phase = .audio) (hfits : pageFits s = true) :
      Effect s .strFin (setPhase .done (emitPending pageFlagsEos (lastGranule s) s))

/-- The duration unit raises two faults only, the two that `PKT.AUD` and `DUR.CALC` may raise (R102, R150). -/
theorem nbSamples_error {p : Packet} {f : FaultCode} (h : nbSamples p = .error f) :
    f = .malformedOpusPacket ∨ f = .packetTooLong := by
  unfold nbSamples at h
  split at h
  · exact .inl (Except.error.inj h).symm
  · dsimp only at h
    split at h
    · exact .inr (Except.error.inj h).symm
    · cases h

section
variable {s : State} {i : Instr}

/-- A fault of the command's own, raised in a phase that R15's table lets it execute in, with the record that R150 gives. -/
theorem Effect.of_raise {f : FaultCode} {info : BitVec 32} {op : Byte} {p : Phase} (hphase : s.phase ≠ .fault)
    (hcell : phaseTable i.opcode s.phase = .leadsTo p) (hf : f ≠ .sequenceError) (hmay : mayRaise f i.opcode = true)
    (hinfo : faultInfo f i s = info) (hop : opcodeByte i.opcode = op) : Effect s i (raise f info op s) := by
  subst hinfo hop
  rw [raise_of_ne s _ _ _ hphase]
  exact .faulted i f hphase hmay (iff_of_false hf (by simp [hcell]))

/-- `SequenceError` in a cell of R15 that reads `Seq` (R154). -/
theorem Effect.of_raiseSequence {op : Byte} (hphase : s.phase ≠ .fault) (hop : opcodeByte i.opcode = op)
    (hmay : mayRaise .sequenceError i.opcode = true) (hcell : phaseTable i.opcode s.phase = .sequenceError) :
    Effect s i (raiseSequence op s) := by
  have hinfo : faultInfo .sequenceError i s = (phaseCode s.phase).setWidth 32 := BitVec.ofNat_toNat ..
  rw [raiseSequence, raise_of_ne s _ _ _ hphase, ← hinfo, ← hop]
  exact .faulted i _ hphase hmay (iff_of_true rfl hcell)

/-- A command that executes in phase `p` only, and raises `SequenceError` in every other. -/
theorem Effect.of_phaseGuard {op : Byte} {p : Phase} {body : State} (hphase : s.phase ≠ .fault)
    (hop : opcodeByte i.opcode = op) (hmay : mayRaise .sequenceError i.opcode = true)
    (hcells : ∀ q, q ≠ .fault → q ≠ p → phaseTable i.opcode q = .sequenceError) (hbody : s.phase = p → Effect s i body) :
    Effect s i (if s.phase ≠ p then raiseSequence op s else body) := by
  split
  case isTrue h => exact .of_raiseSequence hphase hop hmay (hcells _ hphase h)
  case isFalse h => exact hbody (not_not.1 h)

/-- A command other than `RST` that is dropped in phase `FAULT` has in every other phase the effect of its body. -/
theorem Effect.of_unlessFault {effect : State → State} (hrst : i ≠ .rst)
    (h : s.phase ≠ .fault → Effect s i (effect s)) : Effect s i (unlessFault effect s) := by
  obtain ⟨hphase, heq⟩ | ⟨hphase, heq⟩ := unlessFault_cases s effect
  · rw [heq]; exact .dropped i hphase hrst
  · rw [heq]; exact h hphase

/-- A fault of the duration unit, raised by a command that may raise its two faults. -/
theorem Effect.of_nbSamples_error {data : Packet} {f : FaultCode} {op : Byte} {p : Phase} (hf : nbSamples data = .error f)
    (hphase : s.phase ≠ .fault) (hcell : phaseTable i.opcode s.phase = .leadsTo p)
    (hmay : mayRaise .malformedOpusPacket i.opcode = true ∧ mayRaise .packetTooLong i.opcode = true)
    (hop : opcodeByte i.opcode = op) : Effect s i (raise f s.pktidx op s) := by
  obtain rfl | rfl := nbSamples_error hf
  · exact .of_raise hphase hcell nofun hmay.1 rfl hop
  · exact .of_raise hphase hcell nofun hmay.2 rfl hop

end

theorem effect_rd (reg : Byte) (s : State) : ∃ t, execRd reg s = .next t ∧ Effect s (.rd reg) t := by
  unfold execRd
  split
  case h_1 v hv => exact ⟨_, rfl, .responded reg v hv⟩
  case h_2 =>
    exact ⟨_, rfl, .of_unlessFault nofun fun hphase => .of_raise hphase rfl nofun rfl (BitVec.ofNat_toNat ..) rfl⟩

/-- In every phase but `FAULT` the checksum and duration commands execute and stay there (R15). -/
theorem phaseTable_of_unit {o : Opcode} {p : Phase} (ho : o = .crcClr ∨ o = .crcUpd8 ∨ o = .crcUpd ∨ o = .durCalc)
    (hp : p ≠ .fault) : phaseTable o p = .leadsTo p := by
  cases p with
  | fault => exact absurd rfl hp
  | _ => obtain rfl | rfl | rfl | rfl := ho <;> rfl

theorem effect_durCalc (data : Packet) (s : State) : ∃ t, execDurCalc data s = .next t ∧ Effect s (.durCalc data) t := by
  refine ⟨_, rfl, .of_unlessFault nofun fun hphase => ?_⟩
  split
  case h_1 f hf => exact .of_nbSamples_error hf hphase (phaseTable_of_unit (by simp [Instr.opcode]) hphase) ⟨rfl, rfl⟩ rfl
  case h_2 d hd => exact .measured data d hphase hd

theorem effect_strOpen (serial : BitVec 32) (preskip : BitVec 16) (nsamp : BitVec 32) (s : State) :
    ∃ t, execStrOpen serial preskip nsamp s = .next t ∧ Effect s (.strOpen serial preskip nsamp) t := by
  refine ⟨_, rfl, .of_unlessFault nofun fun hphase => ?_⟩
  split
  case isTrue h =>
    have hcell : phaseTable .strOpen s.phase = .sequenceError := by
      cases hp : s.phase <;> simp_all [phaseTable]
    exact .of_raiseSequence hphase rfl rfl hcell
  case isFalse h => exact .opened serial preskip nsamp (by tauto)

theorem effect_pktHead (data : Packet) (s : State) : ∃ t, execPktHead data s = .next t ∧ Effect s (.pktHead data) t := by
  refine ⟨_, rfl, .of_unlessFault nofun fun hphase => ?_⟩
  refine .of_phaseGuard hphase rfl rfl (by rintro ⟨⟩ <;> simp [Instr.opcode, phaseTable]) fun hhead => ?_
  have hcell : phaseTable .pktHead s.phase = .leadsTo .tags := by rw [hhead]; rfl
  split
  case isTrue => exact .of_raise hphase hcell nofun rfl rfl rfl
  case isFalse hsegs =>
    split
    case isTrue => exact .of_raise hphase hcell nofun rfl rfl rfl
    case isFalse hfits => exact .headEmitted data hhead (not_lt.1 hsegs) (not_not.1 hfits)

theorem effect_pktTags (data : Packet) (s : State) : ∃ t, execPktTags data s = .next t ∧ Effect s (.pktTags data) t := by
  refine ⟨_, rfl, .of_unlessFault nofun fun hphase => ?_⟩
  refine .of_phaseGuard hphase rfl rfl (by rintro ⟨⟩ <;> simp [Instr.opcode, phaseTable]) fun htags => ?_
  have hcell : phaseTable .pktTags s.phase = .leadsTo .audio := by rw [htags]; rfl
  split
  case isTrue => exact .of_raise hphase hcell nofun rfl rfl rfl
  case isFalse hsegs => exact .tagsHeld data htags (not_lt.1 hsegs)

/-- `flush` of R120 is false exactly where the packet may join the pending page. -/
theorem mustFlush_eq_false_iff (data : Packet) (s : State) :
    mustFlush data s = false ↔ s.tagpend = false ∧ s.segcnt + segs data.length ≤ Config.maxSegs := by
  simp [mustFlush]

/-- The part of `PKT.AUD` below the line where no fault can occur, by `flush` (R120). -/
theorem Effect.of_placeAudio {data : Packet} {d : Duration} {s : State} (hphase : s.phase = .audio)
    (hd : nbSamples data = .ok d) (hsegs : segs data.length ≤ Config.maxSegs)
    (hfits : mustFlush data s = true → pageFits s = true) : Effect s (.pktAud data) (placeAudio d data s) := by
  unfold placeAudio
  cases hflush : mustFlush data s with
  | true => exact .audioFlushed data d hphase hd hsegs (hfits hflush)
  | false =>
    obtain ⟨htag, hjoin⟩ := (mustFlush_eq_false_iff data s).1 hflush
    exact .audioJoined data d hphase hd htag hjoin

theorem effect_pktAud (data : Packet) (s : State) : ∃ t, execPktAud data s = .next t ∧ Effect s (.pktAud data) t := by
  refine ⟨_, rfl, .of_unlessFault nofun fun hphase => ?_⟩
  refine .of_phaseGuard hphase rfl rfl (by rintro ⟨⟩ <;> simp [Instr.opcode, phaseTable]) fun haudio => ?_
  have hcell : phaseTable .pktAud s.phase = .leadsTo .audio := by rw [haudio]; rfl
  split
  case isTrue => exact .of_raise hphase hcell nofun rfl rfl rfl
  case isFalse hsegs =>
    split
    case h_1 f hf => exact .of_nbSamples_error hf hphase hcell ⟨rfl, rfl⟩ rfl
    case h_2 d hd =>
      split
      case isTrue => exact .of_raise hphase hcell nofun rfl rfl rfl
      case isFalse hfits => exact .of_placeAudio haudio hd (not_lt.1 hsegs) (by simpa using hfits)

theorem effect_strFin (s : State) : ∃ t, execStrFin s = .next t ∧ Effect s .strFin t := by
  refine ⟨_, rfl, .of_unlessFault nofun fun hphase => ?_⟩
  refine .of_phaseGuard hphase rfl rfl (by rintro ⟨⟩ <;> simp [Instr.opcode, phaseTable]) fun haudio => ?_
  have hcell : phaseTable .strFin s.phase = .leadsTo .done := by rw [haudio]; rfl
  split
  case isTrue => exact .of_raise hphase hcell nofun rfl rfl rfl
  case isFalse hfits => exact .finished haudio (not_not.1 hfits)

/-- Every command in every state answers a next state, and `Effect` describes it. -/
theorem exec_effect (i : Instr) (s : State) : ∃ t, exec i s = .next t ∧ Effect s i t := by
  cases i with
  | nop => exact ⟨s, rfl, .nop⟩
  | rst => exact ⟨_, rfl, .rst⟩
  | rd reg => exact effect_rd reg s
  | crcClr => exact ⟨_, rfl, .of_unlessFault nofun .crcCleared⟩
  | crcUpd8 imm8 => exact ⟨_, rfl, .of_unlessFault nofun (.crcStepped imm8)⟩
  | crcUpd data => exact ⟨_, rfl, .of_unlessFault nofun (.crcFolded data)⟩
  | durCalc data => exact effect_durCalc data s
  | strOpen serial preskip nsamp => exact effect_strOpen serial preskip nsamp s
  | pktHead data => exact effect_pktHead data s
  | pktTags data => exact effect_pktTags data s
  | pktAud data => exact effect_pktAud data s
  | strFin => exact effect_strFin s

/-- The inversion of `exec`. -/
theorem effect_of_exec {i : Instr} {s t : State} (h : exec i s = .next t) : Effect s i t := by
  obtain ⟨u, hu, heffect⟩ := exec_effect i s
  cases hu.symm.trans h
  exact heffect

end Sys2Proof.Machine

namespace Sys2Proof.Machine

/-! ### The segment table of a list of packets (R74, R75, R110)

The bytes of a pending page are the lacings of whole packets and the packets themselves. -/

/-- The segment table of a list of packets. -/
def tableOf (ps : List Packet) : List Byte := ps.flatMap fun p => lace p.length

@[simp] theorem tableOf_nil : tableOf [] = [] := rfl

@[simp] theorem tableOf_cons (p : Packet) (ps : List Packet) : tableOf (p :: ps) = lace p.length ++ tableOf ps := rfl

@[simp] theorem tableOf_append (ps qs : List Packet) : tableOf (ps ++ qs) = tableOf ps ++ tableOf qs := by
  simp [tableOf]

@[simp] theorem segsOf_nil : segsOf [] = 0 := rfl

@[simp] theorem segsOf_cons (p : Packet) (ps : List Packet) : segsOf (p :: ps) = segs p.length + segsOf ps := rfl

theorem segs_pos (len : Nat) : 0 < segs len := Nat.succ_pos _

theorem segsOf_append_singleton (ps : List Packet) (p : Packet) : segsOf (ps ++ [p]) = segsOf ps + segs p.length := by
  simp [segsOf]

theorem segsOf_pos {ps : List Packet} (h : ps ≠ []) : 0 < segsOf ps := by
  cases ps with
  | nil => exact absurd rfl h
  | cons p ps => have := segs_pos p.length; simp only [segsOf_cons]; omega

@[simp] theorem length_tableOf (ps : List Packet) : (tableOf ps).length = segsOf ps := by
  induction ps with
  | nil => rfl
  | cons p ps ih => simp [ih]

@[simp] theorem tableSum_append (s t : List Byte) : tableSum (s ++ t) = tableSum s + tableSum t := by
  simp [tableSum]

/-- A lacing sums to the length it laces (R74). -/
@[simp] theorem tableSum_lace (len : Nat) : tableSum (lace len) = len := by
  have h255 : (0xFF : Byte).toNat = 255 := rfl
  simp only [lace, tableSum, Config.segMax, List.map_append, List.map_replicate, List.sum_append, List.sum_replicate,
    List.map_cons, List.map_nil, List.sum_cons, List.sum_nil, BitVec.toNat_ofNat, smul_eq_mul, h255]
  omega

@[simp] theorem tableSum_tableOf (ps : List Packet) : tableSum (tableOf ps) = ps.flatten.length := by
  induction ps with
  | nil => rfl
  | cons p ps ih => simp [ih]

/-- A lacing's last value is below 255 (R74). -/
theorem getLast?_lace (len : Nat) : (lace len).getLast? = some (BitVec.ofNat 8 (len % 255)) := by
  simp [lace, Config.segMax]

/-- A list of whole packets leaves none open at the end of its segment table (R30 (d)). -/
theorem tableOf_closed (ps : List Packet) (v : Byte) (h : (tableOf ps).getLast? = some v) : v.toNat < 255 := by
  obtain rfl | ⟨qs, p, rfl⟩ := ps.eq_nil_or_concat
  · cases h
  · have hv : BitVec.ofNat 8 (p.length % 255) = v := by simpa [getLast?_lace] using h
    rw [← hv, BitVec.toNat_ofNat]
    omega

/-- Unlacing gives the first packet back and goes on behind it (R75). -/
theorem unlace_lace_append (p : Packet) (t q : List Byte) :
    unlace (lace p.length ++ t) (p ++ q) = p :: unlace t q := by
  have hlen : 0 + 255 * (p.length / 255) + p.length % 255 = p.length := by omega
  have hv : (BitVec.ofNat 8 (p.length % 255)).toNat = p.length % 255 := by
    rw [BitVec.toNat_ofNat]; omega
  have hlt : p.length % 255 < 255 := Nat.mod_lt _ (by decide)
  simp only [unlace, lace, Config.segMax, List.append_assoc, unlaceFrom_replicate, List.singleton_append, unlaceFrom, hv]
  rw [if_pos hlt, hlen]
  simp

/-- Unlacing inverts lacing (R75). -/
@[simp] theorem unlace_tableOf (ps : List Packet) : unlace (tableOf ps) ps.flatten = ps := by
  induction ps with
  | nil => rfl
  | cons p ps ih => rw [tableOf_cons, List.flatten_cons, unlace_lace_append, ih]

/-- Every lacing value after `k` full ones makes the packet's lacing (R74). -/
theorem lace_of_lt (k v : Nat) (h : v < 255) : lace (255 * k + v) = List.replicate k 0xFF ++ [BitVec.ofNat 8 v] := by
  have hdiv : (255 * k + v) / 255 = k := by omega
  have hmod : (255 * k + v) % 255 = v := by omega
  simp [lace, Config.segMax, hdiv, hmod]

/-- Lacing inverts unlacing on a segment table that closes its last packet and sums to the payload's length; `k` full
values before it are counted already. -/
theorem tableOf_unlaceFrom {table : List Byte} {payload : List Byte} {k : Nat}
    (hclosed : ∀ v, table.getLast? = some v → v.toNat < 255) (hsum : payload.length = 255 * k + tableSum table)
    (hk : table = [] → k = 0) :
    tableOf (unlaceFrom (255 * k) table payload) = List.replicate k 0xFF ++ table ∧
      (unlaceFrom (255 * k) table payload).flatten = payload := by
  induction table generalizing payload k with
  | nil =>
    obtain rfl := hk rfl
    obtain rfl : payload = [] := List.length_eq_zero_iff.1 (by simpa [tableSum] using hsum)
    exact ⟨rfl, rfl⟩
  | cons v table ih =>
    have hsum' : payload.length = 255 * k + (v.toNat + tableSum table) := by simpa [tableSum] using hsum
    have hclosed' : ∀ w, table.getLast? = some w → w.toNat < 255 := fun w hw =>
      hclosed w (by rw [List.getLast?_cons, hw]; rfl)
    rw [unlaceFrom]
    split
    case isTrue hv =>
      obtain ⟨htable, hflat⟩ := ih (payload := payload.drop (255 * k + v.toNat)) (k := 0) hclosed'
        (by rw [List.length_drop]; omega) (fun _ => rfl)
      have hlen : (payload.take (255 * k + v.toNat)).length = 255 * k + v.toNat := by
        rw [List.length_take]; omega
      rw [Nat.mul_zero] at htable hflat
      refine ⟨?_, ?_⟩
      · rw [tableOf_cons, htable, hlen, lace_of_lt k _ hv]
        simp
      · rw [List.flatten_cons, hflat, List.take_append_drop]
    case isFalse hv =>
      have h255 : v.toNat = 255 := by have := v.isLt; simp only [Config.segMax] at hv; omega
      have hne : table ≠ [] := by
        rintro rfl
        exact hv (hclosed v rfl)
      have hacc : 255 * k + v.toNat = 255 * (k + 1) := by omega
      obtain ⟨htable, hflat⟩ := ih (payload := payload) (k := k + 1) hclosed' (by omega) (fun h => absurd h hne)
      rw [hacc]
      refine ⟨?_, hflat⟩
      rw [htable, List.replicate_succ', BitVec.eq_of_toNat_eq (x := v) (y := 0xFF) h255]
      simp

theorem tableOf_unlace {table payload : List Byte} (hclosed : ∀ v, table.getLast? = some v → v.toNat < 255)
    (hsum : payload.length = tableSum table) :
    tableOf (unlace table payload) = table ∧ (unlace table payload).flatten = payload := by
  simpa [unlace] using tableOf_unlaceFrom (k := 0) hclosed (by omega) (fun _ => rfl)

/-! ### The layout of one page (R71, R112, R122) -/

/-- A write over a field in the middle of a space replaces that field. -/
theorem memWrite_middle (m x y z : List Byte) (h : x.length = y.length) :
    memWrite (m ++ x ++ z) m.length y = m ++ y ++ z := by
  simp [memWrite, ← h, List.drop_append]

section
variable (flags : Byte) (granule : BitVec 64) (serial seq crc : BitVec 32) (table payload : List Byte)

/-- Writing the checksum field replaces it and nothing else. -/
theorem memWrite_pageImage (crc' : BitVec 32) :
    memWrite (pageImage flags granule serial seq crc table payload) checksumOffset (leBytes 4 crc'.toNat)
      = pageImage flags granule serial seq crc' table payload := by
  have h := memWrite_middle (capturePattern ++ [0x00] ++ [flags] ++ leBytes 8 granule.toNat ++ leBytes 4 serial.toNat
    ++ leBytes 4 seq.toNat) (leBytes 4 crc.toNat) (leBytes 4 crc'.toNat)
    ([BitVec.ofNat 8 table.length] ++ table ++ payload) (by simp)
  simpa [pageImage, checksumOffset, capturePattern] using h

/-- The patch makes the zero-field image the finished page (R112). -/
theorem patchChecksum_pageImage :
    patchChecksum (pageImage flags granule serial seq 0 table payload) = finishedPage flags granule serial seq table payload :=
  memWrite_pageImage ..

theorem pageFlags_pageImage : pageFlags (pageImage flags granule serial seq crc table payload) = flags := rfl

theorem pageGranule_pageImage : pageGranule (pageImage flags granule serial seq crc table payload) = granule.toNat :=
  leValue_leBytes 8 _ granule.isLt

theorem pageSerial_pageImage : pageSerial (pageImage flags granule serial seq crc table payload) = serial.toNat :=
  leValue_leBytes 4 _ serial.isLt

theorem pageSeq_pageImage : pageSeq (pageImage flags granule serial seq crc table payload) = seq.toNat :=
  leValue_leBytes 4 _ seq.isLt

theorem pageCrc_pageImage : pageCrc (pageImage flags granule serial seq crc table payload) = crc.toNat :=
  leValue_leBytes 4 _ crc.isLt

theorem drop_hdrLen_pageImage :
    (pageImage flags granule serial seq crc table payload).drop Config.hdrLen = table ++ payload := rfl

theorem pageSegCount_pageImage (h : table.length ≤ 255) :
    pageSegCount (pageImage flags granule serial seq crc table payload) = table.length :=
  Nat.mod_eq_of_lt (Nat.lt_succ_of_le h)

theorem pageTable_pageImage (h : table.length ≤ 255) :
    pageTable (pageImage flags granule serial seq crc table payload) = table := by
  rw [pageTable, pageSegCount_pageImage _ _ _ _ _ _ _ h, memRead, drop_hdrLen_pageImage, List.take_left]

theorem pagePayload_pageImage (h : table.length ≤ 255) :
    pagePayload (pageImage flags granule serial seq crc table payload) = payload := by
  rw [pagePayload, pageSegCount_pageImage _ _ _ _ _ _ _ h, ← List.drop_drop, drop_hdrLen_pageImage, List.drop_left]

/-- A finished page verifies (R122). -/
theorem pageVerifies_finishedPage : pageVerifies (finishedPage flags granule serial seq table payload) = true := by
  have hzero : memWrite (finishedPage flags granule serial seq table payload) checksumOffset [0, 0, 0, 0]
      = pageImage flags granule serial seq 0 table payload := memWrite_pageImage (crc' := 0) ..
  rw [pageVerifies, hzero, finishedPage, pageCrc_pageImage, beq_self_eq_true]

end

/-! ### Splitting a stream into pages (R123) -/

/-- One whole page: a header, and the length that its own segment table calls for. -/
def WholePage (page : List Byte) : Prop := Config.hdrLen ≤ page.length ∧ pageLength page = page.length

/-- The segment count of a page does not depend on what follows its header. -/
theorem pageSegCount_append {page : List Byte} (rest : List Byte) (h : Config.hdrLen ≤ page.length) :
    pageSegCount (page ++ rest) = pageSegCount page := by
  have h26 : 26 < page.length := h
  simp [pageSegCount, List.getD_eq_getElem?_getD, List.getElem?_append_left h26]

/-- Nor does its length depend on what follows its segment table. -/
theorem pageLength_append {page : List Byte} (rest : List Byte) (h : Config.hdrLen + pageSegCount page ≤ page.length) :
    pageLength (page ++ rest) = pageLength page := by
  have hcount : pageSegCount (page ++ rest) = pageSegCount page := pageSegCount_append rest (by omega)
  have htable : pageTable (page ++ rest) = pageTable page := by
    rw [pageTable, pageTable, hcount, memRead, memRead, List.drop_append_of_le_length (by omega),
      List.take_append_of_le_length (by rw [List.length_drop]; omega)]
  rw [pageLength, pageLength, hcount, htable]

theorem WholePage.pageLength_append {page : List Byte} (h : WholePage page) (rest : List Byte) :
    pageLength (page ++ rest) = page.length := by
  obtain ⟨-, hlen⟩ := h
  rw [Machine.pageLength_append rest (by rw [← hlen, pageLength]; omega), hlen]

theorem hdrLen_le_pageLength (bytes : List Byte) : Config.hdrLen ≤ pageLength bytes := by
  unfold pageLength; omega

/-- What `splitPages` takes from the front is a whole page. -/
theorem wholePage_take {bytes : List Byte} (h : pageLength bytes ≤ bytes.length) :
    WholePage (bytes.take (pageLength bytes)) := by
  have hhdr := hdrLen_le_pageLength bytes
  have hlen : (bytes.take (pageLength bytes)).length = pageLength bytes := List.length_take_of_le h
  have hcount : pageSegCount (bytes.take (pageLength bytes)) = pageSegCount bytes := by
    rw [← pageSegCount_append (bytes.drop (pageLength bytes)) (by omega), List.take_append_drop]
  refine ⟨by omega, ?_⟩
  rw [← pageLength_append (bytes.drop (pageLength bytes)) (by rw [hcount, hlen, pageLength]; omega),
    List.take_append_drop, hlen]

theorem WholePage.ne_nil {page : List Byte} (h : WholePage page) : page ≠ [] := by
  rintro rfl
  exact absurd h.1 (by decide)

/-- One page off the front of a stream. -/
theorem splitPages_append {page : List Byte} (h : WholePage page) (rest : List Byte) (fuel : Nat) :
    splitPages (fuel + 1) (page ++ rest) = (splitPages fuel rest).map (page :: ·) := by
  have hlen := h.pageLength_append rest
  obtain ⟨b, bs, hb⟩ := List.exists_cons_of_ne_nil (List.append_ne_nil_of_left_ne_nil h.ne_nil rest)
  have hfits : ¬ ((page ++ rest).length < Config.hdrLen ∨ (page ++ rest).length < page.length) := by
    have := h.1
    rw [List.length_append]; omega
  rw [hb, splitPages, ← hb]
  simp only [hlen, if_neg hfits, List.drop_left, List.take_left]

theorem flatten_of_splitPages {fuel : Nat} {bytes : List Byte} {pages : List (List Byte)}
    (h : splitPages fuel bytes = some pages) : bytes = pages.flatten ∧ ∀ page ∈ pages, WholePage page := by
  induction fuel generalizing bytes pages with
  | zero =>
    cases bytes with
    | nil => cases h; exact ⟨rfl, nofun⟩
    | cons b bs => cases h
  | succ fuel ih =>
    cases bytes with
    | nil => cases h; exact ⟨rfl, nofun⟩
    | cons b bs =>
      rw [splitPages] at h
      split at h
      case isTrue => cases h
      case isFalse hfits =>
        obtain ⟨rest, hrest, rfl⟩ := Option.map_eq_some_iff.1 h
        obtain ⟨hflat, hwhole⟩ := ih hrest
        refine ⟨by rw [List.flatten_cons, ← hflat, List.take_append_drop], ?_⟩
        exact List.forall_mem_cons.2 ⟨wholePage_take (by omega), hwhole⟩

theorem splitPages_flatten {pages : List (List Byte)} (hwhole : ∀ page ∈ pages, WholePage page) {fuel : Nat}
    (hfuel : pages.flatten.length ≤ fuel) : splitPages fuel pages.flatten = some pages := by
  induction pages generalizing fuel with
  | nil => cases fuel <;> rfl
  | cons page pages ih =>
    obtain ⟨hpage, hpages⟩ := List.forall_mem_cons.1 hwhole
    have hpos := List.length_pos_iff.2 hpage.ne_nil
    rw [List.flatten_cons, List.length_append] at hfuel
    obtain ⟨fuel, rfl⟩ := Nat.exists_eq_add_one_of_ne_zero (n := fuel) (by omega)
    rw [List.flatten_cons, splitPages_append hpage, ih hpages (by omega)]
    rfl

/-- The pages of a stream are the whole pages that it is made of. -/
theorem pagesOf_eq_some_iff {bytes : List Byte} {pages : List (List Byte)} :
    pagesOf bytes = some pages ↔ bytes = pages.flatten ∧ ∀ page ∈ pages, WholePage page := by
  refine ⟨flatten_of_splitPages, ?_⟩
  rintro ⟨rfl, hwhole⟩
  exact splitPages_flatten hwhole le_rfl

/-- A whole page written behind a stream is its new last page. -/
theorem pagesOf_append {bytes page : List Byte} {pages : List (List Byte)} (h : pagesOf bytes = some pages)
    (hpage : WholePage page) : pagesOf (bytes ++ page) = some (pages ++ [page]) := by
  obtain ⟨rfl, hwhole⟩ := pagesOf_eq_some_iff.1 h
  refine pagesOf_eq_some_iff.2 ⟨by simp, ?_⟩
  simp only [List.mem_append, List.mem_singleton]
  rintro p (hp | rfl)
  · exact hwhole p hp
  · exact hpage

/-! ### A page of whole packets -/

/-- The finished page that carries the packets `ps`. -/
def packedPage (flags : Byte) (granule : BitVec 64) (serial seq : BitVec 32) (ps : List Packet) : List Byte :=
  finishedPage flags granule serial seq (tableOf ps) ps.flatten

section
variable (flags : Byte) (granule : BitVec 64) (serial seq : BitVec 32) {ps : List Packet}

@[simp] theorem pageFlags_packedPage : pageFlags (packedPage flags granule serial seq ps) = flags := pageFlags_pageImage ..

@[simp] theorem pageGranule_packedPage : pageGranule (packedPage flags granule serial seq ps) = granule.toNat :=
  pageGranule_pageImage ..

@[simp] theorem pageSerial_packedPage : pageSerial (packedPage flags granule serial seq ps) = serial.toNat :=
  pageSerial_pageImage ..

@[simp] theorem pageSeq_packedPage : pageSeq (packedPage flags granule serial seq ps) = seq.toNat := pageSeq_pageImage ..

theorem pageVerifies_packedPage : pageVerifies (packedPage flags granule serial seq ps) = true :=
  pageVerifies_finishedPage ..

theorem pageSegCount_packedPage (h : segsOf ps ≤ 255) :
    pageSegCount (packedPage flags granule serial seq ps) = segsOf ps := by
  rw [packedPage, finishedPage, pageSegCount_pageImage _ _ _ _ _ _ _ (by simpa using h), length_tableOf]

theorem pageTable_packedPage (h : segsOf ps ≤ 255) : pageTable (packedPage flags granule serial seq ps) = tableOf ps :=
  pageTable_pageImage _ _ _ _ _ _ _ (by simpa using h)

/-- A page gives its packets back (R123). -/
theorem pagePackets_packedPage (h : segsOf ps ≤ 255) : pagePackets (packedPage flags granule serial seq ps) = ps := by
  rw [pagePackets, pageTable_packedPage _ _ _ _ h, packedPage, finishedPage,
    pagePayload_pageImage _ _ _ _ _ _ _ (by simpa using h), unlace_tableOf]

theorem wholePage_packedPage (h : segsOf ps ≤ 255) : WholePage (packedPage flags granule serial seq ps) := by
  have hlen : (packedPage flags granule serial seq ps).length = Config.hdrLen + segsOf ps + ps.flatten.length := by
    rw [packedPage, finishedPage, length_pageImage, length_tableOf]
  refine ⟨by omega, ?_⟩
  rw [pageLength, pageSegCount_packedPage _ _ _ _ h, pageTable_packedPage _ _ _ _ h, tableSum_tableOf, hlen]

end
end Sys2Proof.Machine

namespace Sys2Proof.Machine

/-! ### Measured durations (R26, R101, R102) -/

theorem samplesPerFrame_mem (b0 : Byte) : samplesPerFrame b0 48000 ∈ [120, 240, 480, 960, 1920, 2880] := by
  have hclass : tocClass b0 < 4 := (b0.extractLsb' 3 2).isLt
  unfold samplesPerFrame
  generalize tocClass b0 = c at hclass
  split
  case isTrue => interval_cases c <;> decide
  case isFalse =>
    split
    case isTrue => split <;> decide
    case isFalse => interval_cases c <;> decide

/-- What an accepted packet measures (R102). -/
theorem nbSamples_ok {p : Packet} {d : Duration} (h : nbSamples p = .ok d) :
    d.spf ∈ [120, 240, 480, 960, 1920, 2880] ∧ d.n = d.nf * d.spf ∧ d.n ≤ 5760 := by
  unfold nbSamples at h
  split at h
  case h_1 => cases h
  case h_2 nf _ =>
    dsimp only at h
    split at h
    case isTrue => cases h
    case isFalse hle =>
      cases h
      refine ⟨samplesPerFrame_mem _, rfl, ?_⟩
      simp only [Config.fs] at hle ⊢
      omega

/-- No frame is shorter than 120 samples, so a packet has at most 48 of them. -/
theorem nbSamples_nf_le {p : Packet} {d : Duration} (h : nbSamples p = .ok d) : d.nf ≤ 48 := by
  obtain ⟨hspf, hn, hle⟩ := nbSamples_ok h
  have h120 : 120 ≤ d.spf := by
    simp only [List.mem_cons, List.not_mem_nil, or_false] at hspf
    omega
  have hmul : d.nf * 120 ≤ d.nf * d.spf := Nat.mul_le_mul_left _ h120
  omega

/-- The duration registers hold an accepted packet's figures unwrapped (R26, R104). -/
theorem setDuration_toNat {p : Packet} {d : Duration} (s : State) (h : nbSamples p = .ok d) :
    (setDuration d s).nbf.toNat = d.nf ∧ (setDuration d s).spf.toNat = d.spf ∧ (setDuration d s).nsmp.toNat = d.n := by
  obtain ⟨hspf, -, hle⟩ := nbSamples_ok h
  have hnf := nbSamples_nf_le h
  have hspf' : d.spf ≤ 2880 := by
    simp only [List.mem_cons, List.not_mem_nil, or_false] at hspf
    omega
  refine ⟨?_, ?_, ?_⟩
  · exact Nat.mod_eq_of_lt (by omega)
  · exact Nat.mod_eq_of_lt (by omega)
  · exact Nat.mod_eq_of_lt (by omega)

/-- R26 for the figures of an accepted packet. -/
theorem durations_setDuration {p : Packet} {d : Duration} (s : State) (h : nbSamples p = .ok d) :
    (setDuration d s).nbf.toNat ≤ 63 ∧ (setDuration d s).spf.toNat ∈ spfValues ∧
      (setDuration d s).nsmp.toNat ≤ Config.maxDur ∧
      (setDuration d s).nsmp.toNat = (setDuration d s).nbf.toNat * (setDuration d s).spf.toNat := by
  obtain ⟨hnbf, hspf, hnsmp⟩ := setDuration_toNat s h
  obtain ⟨hmem, hn, hle⟩ := nbSamples_ok h
  have hnf := nbSamples_nf_le h
  rw [hnbf, hspf, hnsmp]
  exact ⟨by omega, List.mem_cons_of_mem 0 hmem, hle, hn⟩

/-! ### The pending page as a list of packets (R22, R23, R30 (a) to (d)) -/

/-- The pending page is the packets `ps`. -/
structure HoldsPackets (s : State) (ps : List Packet) : Prop where
  segtab_eq : s.segtab = tableOf ps
  payload_eq : s.payload = ps.flatten

section
variable {s : State} {ps : List Packet}

theorem HoldsPackets.segcnt_eq (h : HoldsPackets s ps) : s.segcnt = segsOf ps := by
  rw [State.segcnt, h.segtab_eq, length_tableOf]

theorem HoldsPackets.unlace_eq (h : HoldsPackets s ps) : unlace s.segtab s.payload = ps := by
  rw [h.segtab_eq, h.payload_eq, unlace_tableOf]

/-- R30 (b). -/
theorem HoldsPackets.paylen_eq (h : HoldsPackets s ps) : s.paylen = tableSum s.segtab := by
  rw [State.paylen, h.segtab_eq, h.payload_eq, tableSum_tableOf]

/-- R30 (c). -/
theorem HoldsPackets.no_packet (h : HoldsPackets s ps) :
    (s.segcnt = 0 ↔ unlace s.segtab s.payload = []) ∧ (s.segcnt = 0 → s.paylen = 0) := by
  have hnil : segsOf ps = 0 ↔ ps = [] :=
    ⟨fun h0 => by_contra fun hne => (segsOf_pos hne).ne' h0, fun h0 => by simp [h0]⟩
  rw [h.segcnt_eq, h.unlace_eq, hnil, State.paylen, h.payload_eq]
  exact ⟨Iff.rfl, fun h0 => by simp [h0]⟩

/-- R30 (d). -/
theorem HoldsPackets.closed (h : HoldsPackets s ps) (v : Byte) (hv : s.segtab.getLast? = some v) :
    v.toNat < Config.segMax :=
  tableOf_closed ps v (h.segtab_eq ▸ hv)

theorem HoldsPackets.append (h : HoldsPackets s ps) (p : Packet) : HoldsPackets (appendPacket p s) (ps ++ [p]) where
  segtab_eq := by simp [h.segtab_eq]
  payload_eq := by simp [h.payload_eq]

/-- With no segment pending the pending page holds no packet. -/
theorem HoldsPackets.eq_nil (h : HoldsPackets s ps) (h0 : s.segcnt = 0) : ps = [] :=
  by_contra fun hne => (segsOf_pos hne).ne' (h.segcnt_eq ▸ h0)

theorem HoldsPackets.ne_nil (h : HoldsPackets s ps) (h1 : 1 ≤ s.segcnt) : ps ≠ [] := by
  rintro rfl
  rw [h.segcnt_eq] at h1
  exact absurd h1 (by decide)

/-- R30 (b) and (d) make the pending page whole packets. -/
theorem BlockInv.holdsPackets (h : BlockInv s) : HoldsPackets s (unlace s.segtab s.payload) := by
  obtain ⟨htable, hpayload⟩ := tableOf_unlace h.closed h.paylen_eq
  exact ⟨htable.symm, hpayload.symm⟩

/-- The packets pending are within one page (R30 (a)). -/
theorem BlockInv.segsOf_le (h : BlockInv s) (hps : HoldsPackets s ps) : segsOf ps ≤ 255 :=
  hps.segcnt_eq ▸ h.segcnt_le

/-- Where nothing is pending, in `IDLE`, `HEAD`, `TAGS` and `DONE` (R30 (e)). -/
theorem BlockInv.holdsPackets_nil (h : BlockInv s)
    (hphase : s.phase = .idle ∨ s.phase = .head ∨ s.phase = .tags ∨ s.phase = .done) : HoldsPackets s [] :=
  h.holdsPackets.eq_nil (h.resting hphase).1 ▸ h.holdsPackets

end

/-! ### Every command keeps the block's invariant (R30) -/

section
variable {s : State}

theorem faultByte_ne_zero (f : FaultCode) : faultByte f ≠ 0 := by
  cases f <;> decide

theorem fitsSize_zero (cap : Option Nat) : fitsSize 0 cap = true := by
  cases cap <;> simp [fitsSize]

/-- Fault entry empties `OUT`, records the fault, and leaves the pending page (R160). -/
theorem blockInv_enterFault (h : BlockInv s) (f : FaultCode) (info : BitVec 32) (op : Byte) :
    BlockInv (enterFault f info op s) :=
  { h with
    resting := by simp
    pending := by simp
    tags_held := fun htag => ⟨(h.tags_held htag).1, .inr rfl⟩
    none_counted := by simp
    fault_recorded := iff_of_false (faultByte_ne_zero f) (not_not.2 rfl)
    no_output := fun _ => rfl
    desync_faulted := fun _ => rfl
    out_fits := fitsSize_zero _ }

/-- `DESYNC` is set in phase `FAULT` only (R28, R155). -/
theorem blockInv_raiseIllegalCommand (h : BlockInv s) (op : Byte) : BlockInv (raiseIllegalCommand op s) := by
  have hraise : BlockInv (raise .illegalCommand 0 op s) := by
    unfold raise
    split
    · exact h
    · exact blockInv_enterFault h _ _ _
  exact { hraise with desync_faulted := fun _ => raise_phase s _ _ _ }

theorem blockInv_setCrc (h : BlockInv s) (c : BitVec 32) : BlockInv (setCrc c s) :=
  { h with }

theorem blockInv_setDuration (h : BlockInv s) {data : Packet} {d : Duration} (hd : nbSamples data = .ok d) :
    BlockInv (setDuration d s) :=
  { h with durations := durations_setDuration s hd }

/-- `STR.OPEN` empties the pending page and `OUT`, and computes `FINAL` (R117, R20). -/
theorem blockInv_openStream (h : BlockInv s) (hphase : s.phase ≠ .fault) (serial : BitVec 32) (preskip : BitVec 16)
    (nsamp : BitVec 32) : BlockInv (openStream serial preskip nsamp s) := by
  have hps : HoldsPackets (openStream serial preskip nsamp s) [] := ⟨rfl, rfl⟩
  exact { h with
    segcnt_le := Nat.zero_le _
    paylen_eq := hps.paylen_eq
    no_packet := hps.no_packet
    closed := hps.closed
    resting := fun _ => ⟨rfl, rfl⟩
    pending := by simp
    tags_held := by simp
    none_counted := fun _ => rfl
    fault_recorded := iff_of_true (h.fault_recorded.2 hphase) (by simp)
    no_output := fun _ => rfl
    desync_faulted := fun hdesync => absurd (h.desync_faulted hdesync) hphase
    out_fits := fitsSize_zero _
    final_known := ⟨rfl, rfl⟩ }

/-- A page that fits leaves `OUT` within `OUT_CAP` (R42, R112). -/
theorem fitsSize_emitPage (h : pageFits s = true) (flags : Byte) (granule : BitVec 64) :
    fitsSize (emitPage flags granule s).outlen s.outCap = true := by
  rw [outlen_emitPage]
  exact h

/-- A state in `TAGS` or `DONE`, behind a page that has just been emitted: what `PKT.HEAD` and `STR.FIN` have to establish
(R30 (e)). -/
theorem BlockInv.of_emitted {t : State} (h : BlockInv s) (hs : s.phase ≠ .fault) (ht : t.phase = .tags ∨ t.phase = .done)
    (hps : HoldsPackets t []) (htag : t.tagpend = false) (hcount : t.phase = .tags → t.pktidx = 0)
    (hfits : fitsSize t.outlen t.outCap = true) (herr : t.err = s.err) (hdesync : t.desync = s.desync)
    (hfinal : t.finalv = countKnown t.nsamp ∧ t.final = finalGranule t.preskip t.nsamp)
    (hdur : t.nbf.toNat ≤ 63 ∧ t.spf.toNat ∈ spfValues ∧ t.nsmp.toNat ≤ Config.maxDur ∧
      t.nsmp.toNat = t.nbf.toNat * t.spf.toNat) : BlockInv t where
  segcnt_le := by simp [hps.segcnt_eq]
  paylen_eq := hps.paylen_eq
  no_packet := hps.no_packet
  closed := hps.closed
  resting := fun _ => ⟨hps.segcnt_eq, htag⟩
  pending := by obtain hp | hp := ht <;> simp [hp]
  tags_held := by simp [htag]
  none_counted := by obtain hp | hp := ht <;> simp [hp, hcount]
  fault_recorded := iff_of_true (herr ▸ h.fault_recorded.2 hs) (by obtain hp | hp := ht <;> simp [hp])
  no_output := by obtain hp | hp := ht <;> simp [hp]
  desync_faulted := fun h1 => absurd (h.desync_faulted (hdesync ▸ h1)) hs
  out_fits := hfits
  final_known := hfinal
  durations := hdur

/-- `PKT.HEAD` emits its own page and leaves nothing pending (R118). -/
theorem blockInv_headEmitted (h : BlockInv s) {data : Packet} (hphase : s.phase = .head)
    (hfits : outFits (Config.hdrLen + segs data.length + data.length) s = true) :
    BlockInv (setPhase .tags (emitPage pageFlagsBos 0 (appendPacket data s))) := by
  have hresting := h.resting (.inr (.inl hphase))
  have hcounted := h.none_counted (.inl hphase)
  have hnil := h.holdsPackets_nil (.inr (.inl hphase))
  have hfits' : pageFits (appendPacket data s) = true := by
    have happ := hnil.append data
    simpa [pageFits, outFits, State.outlen, happ.segcnt_eq, State.paylen, hnil.payload_eq] using hfits
  have hout := fitsSize_emitPage hfits' pageFlagsBos 0
  exact h.of_emitted (by simp [hphase]) (by simp) ⟨by simp, by simp⟩ (by simp [hresting]) (by simp [hcounted])
    hout (by simp) (by simp) (by simpa using h.final_known) (by simpa using h.durations)

/-- A state in `AUDIO` with packets pending: what `PKT.TAGS` and `PKT.AUD` have to establish (R30 (a) to (g)). -/
theorem BlockInv.of_audio {t : State} {ps : List Packet} (h : BlockInv s) (hs : s.phase ≠ .fault) (ht : t.phase = .audio)
    (hps : HoldsPackets t ps) (hne : ps ≠ []) (hsegs : segsOf ps ≤ 255) (htag : t.tagpend = true → t.pktidx = 0)
    (hfits : fitsSize t.outlen t.outCap = true) (herr : t.err = s.err) (hdesync : t.desync = s.desync)
    (hfinal : t.finalv = countKnown t.nsamp ∧ t.final = finalGranule t.preskip t.nsamp)
    (hdur : t.nbf.toNat ≤ 63 ∧ t.spf.toNat ∈ spfValues ∧ t.nsmp.toNat ≤ Config.maxDur ∧
      t.nsmp.toNat = t.nbf.toNat * t.spf.toNat) : BlockInv t where
  segcnt_le := hps.segcnt_eq ▸ hsegs
  paylen_eq := hps.paylen_eq
  no_packet := hps.no_packet
  closed := hps.closed
  resting := by simp [ht]
  pending := fun _ => hps.segcnt_eq ▸ segsOf_pos hne
  tags_held := fun h1 => ⟨htag h1, .inl ht⟩
  none_counted := by simp [ht]
  fault_recorded := iff_of_true (herr ▸ h.fault_recorded.2 hs) (by simp [ht])
  no_output := by simp [ht]
  desync_faulted := fun h1 => absurd (h.desync_faulted (hdesync ▸ h1)) hs
  out_fits := hfits
  final_known := hfinal
  durations := hdur

/-- `PKT.TAGS` holds its packet alone, before any audio packet is counted (R119, R25). -/
theorem blockInv_tagsHeld (h : BlockInv s) {data : Packet} (hphase : s.phase = .tags)
    (hsegs : segs data.length ≤ Config.maxSegs) :
    BlockInv (setPhase .audio (holdTagsPage (appendPacket data s))) := by
  have happ := (h.holdsPackets_nil (.inr (.inr (.inl hphase)))).append data
  exact h.of_audio (ps := [data]) (by simp [hphase]) rfl ⟨happ.segtab_eq, happ.payload_eq⟩ (by simp) hsegs
    (fun _ => h.none_counted (.inr hphase)) h.out_fits rfl rfl h.final_known h.durations

/-- `PKT.AUD` whose packet joins the pending page (R120, R114). -/
theorem blockInv_audioJoined (h : BlockInv s) {data : Packet} {d : Duration} (hphase : s.phase = .audio)
    (hd : nbSamples data = .ok d) (htag : s.tagpend = false) (hsegs : s.segcnt + segs data.length ≤ Config.maxSegs) :
    BlockInv (countPacket d.n (appendPacket data (setDuration d s))) := by
  have happ := h.holdsPackets.append data
  have hsum : segsOf (unlace s.segtab s.payload ++ [data]) ≤ 255 := by
    rw [segsOf_append_singleton, ← h.holdsPackets.segcnt_eq]
    exact hsegs
  exact h.of_audio (by simp [hphase]) (by simp [hphase]) ⟨happ.segtab_eq, happ.payload_eq⟩ (by simp) hsum (by simp [htag])
    h.out_fits (by simp) (by simp) (by simpa using h.final_known) (by simpa using durations_setDuration s hd)

/-- `PKT.AUD` whose packet begins the next page (R120, R114). -/
theorem blockInv_audioFlushed (h : BlockInv s) {data : Packet} {d : Duration} (hphase : s.phase = .audio)
    (hd : nbSamples data = .ok d) (hsegs : segs data.length ≤ Config.maxSegs) (hfits : pageFits s = true) :
    BlockInv (countPacket d.n (appendPacket data (emitPending pageFlagsNone s.gran (setDuration d s)))) := by
  have hout : fitsSize (emitPending pageFlagsNone s.gran (setDuration d s)).outlen s.outCap = true :=
    fitsSize_emitPage (s := setDuration d s) hfits _ _
  exact h.of_audio (ps := [data]) (by simp [hphase]) (by simp [hphase]) ⟨by simp, by simp⟩ (by simp) hsegs
    (by simp) (by simpa [State.outlen] using hout) (by simp) (by simp) (by simpa using h.final_known)
    (by simpa using durations_setDuration s hd)

/-- `STR.FIN` emits the pending page and leaves nothing pending (R121). -/
theorem blockInv_finished (h : BlockInv s) (hphase : s.phase = .audio) (hfits : pageFits s = true) :
    BlockInv (setPhase .done (emitPending pageFlagsEos (lastGranule s) s)) := by
  have hout : fitsSize (emitPending pageFlagsEos (lastGranule s) s).outlen s.outCap = true := fitsSize_emitPage hfits _ _
  exact h.of_emitted (by simp [hphase]) (by simp) ⟨by simp, by simp⟩ (by simp) (by simp)
    hout (by simp) (by simp) (by simpa using h.final_known) (by simpa using h.durations)

/-- Every command keeps the block's invariant. -/
theorem BlockInv.effect {i : Instr} {t : State} (h : BlockInv s) (heffect : Effect s i t) : BlockInv t := by
  cases heffect with
  | nop | dropped => exact h
  | rst => exact (resetWith_blockInv s.outCap).withStreams _ _
  | responded reg v => exact h.withStreams _ _
  | faulted => exact blockInv_enterFault h _ _ _
  | crcCleared | crcStepped | crcFolded => exact blockInv_setCrc h _
  | measured data d _ hd => exact blockInv_setDuration h hd
  | opened serial preskip nsamp hphase =>
    exact blockInv_openStream h (by obtain hp | hp := hphase <;> simp [hp]) serial preskip nsamp
  | headEmitted data hphase _ hfits => exact blockInv_headEmitted h hphase hfits
  | tagsHeld data hphase hsegs => exact blockInv_tagsHeld h hphase hsegs
  | audioJoined data d hphase hd htag hsegs => exact blockInv_audioJoined h hphase hd htag hsegs
  | audioFlushed data d hphase hd hsegs hfits => exact blockInv_audioFlushed h hphase hd hsegs hfits
  | finished hphase hfits => exact blockInv_finished h hphase hfits

end

/-- The induction step of every invariant that does not read `CMD`: it is enough that the commands and the decoder's own
fault keep it (R61, R155). -/
theorem step_keeps {P : State → Prop} (hcmd : ∀ s cmd, P s → P { s with cmd := cmd })
    (heffect : ∀ s i t, P s → Effect s i t → P t) (hillegal : ∀ s op, P s → P (raiseIllegalCommand op s))
    {s t : State} (hs : P s) (h : step s = .next t) : P t := by
  obtain ⟨i, rest, -, -, hexec⟩ | ⟨op, -, -, rfl⟩ | ⟨-, rfl⟩ := step_cases h
  · exact heffect _ i t (hcmd s rest hs) (effect_of_exec hexec)
  · exact hillegal _ op (hcmd s _ hs)
  · exact hs

/-- Settles O47: the commands keep the block's invariant, and so does the decoder's own fault. -/
theorem stepKeepsBlockInvariant : Obligations.StepKeepsBlockInvariant := by
  intro s t hs hstep
  exact step_keeps (P := BlockInv) (fun _ cmd h => h.withStreams cmd _) (fun _ _ _ h => h.effect)
    (fun _ op h => blockInv_raiseIllegalCommand h op) hs hstep

end Sys2Proof.Machine

namespace Sys2Proof.Machine

/-! ### The emission of a page (R112), as the invariants of the output stream see it -/

/-- The samples of the audio packets in the pending page; the tags page has none. -/
def pendingSamples (s : State) : Nat := if s.tagpend then 0 else totalSamples (unlace s.segtab s.payload)

/-- The three places where a page is emitted, with the flags and the granule position of R113 and R115. -/
inductive EmissionStage (s t : State) : Byte → BitVec 64 → Prop
  | head (hs : s.phase = .head) (ht : t.phase = .tags) : EmissionStage s t pageFlagsBos 0
  | flush (hs : s.phase = .audio) (ht : t.phase = .audio) :
      EmissionStage s t pageFlagsNone (if s.tagpend then 0 else s.gran)
  | finish (hs : s.phase = .audio) (ht : t.phase = .done) :
      EmissionStage s t pageFlagsEos (if s.tagpend then 0 else lastGranule s)

/-- `t` follows `s` by a command that emits the page of the packets `ps`. -/
structure Emission (s t : State) (flags : Byte) (granule : BitVec 64) (ps : List Packet) : Prop where
  stage : EmissionStage s t flags granule
  out_eq : t.out = s.out ++ packedPage flags granule s.serial s.seq ps
  ne_nil : ps ≠ []
  segs_le : segsOf ps ≤ 255
  seq_eq : t.seq = s.seq + 1
  serial_eq : t.serial = s.serial
  final_eq : t.finalv = s.finalv ∧ t.final = s.final
  tagpend_eq : t.tagpend = false
  /-- `GRAN` counts the packet that the command leaves pending, if it does (R19). -/
  gran_eq : t.gran.toNat = (s.gran.toNat + pendingSamples t) % 2 ^ 64
  pending_eq : pendingSamples s = if s.phase = .audio ∧ s.tagpend = false then totalSamples ps else 0

section
variable {s : State} {ps : List Packet}

theorem HoldsPackets.pendingSamples_eq (h : HoldsPackets s ps) :
    pendingSamples s = if s.tagpend then 0 else totalSamples ps := by
  rw [pendingSamples, h.unlace_eq]

/-- The image of the pending page, patched, is the finished page of its packets (R111, R112). -/
theorem HoldsPackets.patchChecksum_serialise (h : HoldsPackets s ps) (flags : Byte) (granule : BitVec 64) :
    patchChecksum (serialise flags granule s) = packedPage flags granule s.serial s.seq ps := by
  rw [serialise, h.segtab_eq, h.payload_eq, patchChecksum_pageImage]
  rfl

@[simp] theorem totalSamples_nil : totalSamples [] = 0 := rfl

@[simp] theorem totalSamples_append (ps qs : List Packet) : totalSamples (ps ++ qs) = totalSamples ps + totalSamples qs := by
  simp [totalSamples]

theorem totalSamples_singleton {p : Packet} {d : Duration} (h : nbSamples p = .ok d) : totalSamples [p] = d.n := by
  simp [totalSamples, packetSamples, h]

theorem emission_headEmitted (h : BlockInv s) {data : Packet} (hphase : s.phase = .head)
    (hsegs : segs data.length ≤ Config.maxSegs) :
    Emission s (setPhase .tags (emitPage pageFlagsBos 0 (appendPacket data s))) pageFlagsBos 0 [data] := by
  have hnil := h.holdsPackets_nil (.inr (.inl hphase))
  have htag : s.tagpend = false := (h.resting (.inr (.inl hphase))).2
  have ht : HoldsPackets (setPhase .tags (emitPage pageFlagsBos 0 (appendPacket data s))) [] := ⟨by simp, by simp⟩
  refine
    { stage := .head hphase (by simp)
      out_eq := ?_
      ne_nil := by simp
      segs_le := hsegs
      seq_eq := by simp
      serial_eq := by simp
      final_eq := by simp
      tagpend_eq := by simp [htag]
      gran_eq := ?_
      pending_eq := by simp [hnil.pendingSamples_eq, hphase] }
  · have happ := (hnil.append data).patchChecksum_serialise pageFlagsBos 0
    simpa using happ
  · rw [ht.pendingSamples_eq]
    simp [htag, Nat.mod_eq_of_lt s.gran.isLt]

theorem emission_audioFlushed (h : BlockInv s) {data : Packet} {d : Duration} (hphase : s.phase = .audio)
    (hd : nbSamples data = .ok d) :
    Emission s (countPacket d.n (appendPacket data (emitPending pageFlagsNone s.gran (setDuration d s)))) pageFlagsNone
      (if s.tagpend then 0 else s.gran) (unlace s.segtab s.payload) := by
  have hps := h.holdsPackets
  have hmeasured : HoldsPackets (setDuration d s) (unlace s.segtab s.payload) := ⟨hps.segtab_eq, hps.payload_eq⟩
  have ht : HoldsPackets (countPacket d.n (appendPacket data (emitPending pageFlagsNone s.gran (setDuration d s)))) [data] :=
    ⟨by simp, by simp⟩
  refine
    { stage := .flush hphase (by simp [hphase])
      out_eq := ?_
      ne_nil := hps.ne_nil (h.pending hphase)
      segs_le := h.segsOf_le hps
      seq_eq := by simp
      serial_eq := by simp
      final_eq := by simp
      tagpend_eq := by simp
      gran_eq := ?_
      pending_eq := by rw [hps.pendingSamples_eq]; cases s.tagpend <;> simp [hphase] }
  · rw [countPacket_out, appendPacket_out, emitPending_out, hmeasured.patchChecksum_serialise]
    rfl
  · rw [ht.pendingSamples_eq, totalSamples_singleton hd]
    simp [BitVec.toNat_add]

theorem emission_finished (h : BlockInv s) (hphase : s.phase = .audio) :
    Emission s (setPhase .done (emitPending pageFlagsEos (lastGranule s) s)) pageFlagsEos
      (if s.tagpend then 0 else lastGranule s) (unlace s.segtab s.payload) := by
  have hps := h.holdsPackets
  have ht : HoldsPackets (setPhase .done (emitPending pageFlagsEos (lastGranule s) s)) [] := ⟨by simp, by simp⟩
  refine
    { stage := .finish hphase (by simp)
      out_eq := ?_
      ne_nil := hps.ne_nil (h.pending hphase)
      segs_le := h.segsOf_le hps
      seq_eq := by simp
      serial_eq := by simp
      final_eq := by simp
      tagpend_eq := by simp
      gran_eq := ?_
      pending_eq := by rw [hps.pendingSamples_eq]; cases s.tagpend <;> simp [hphase] }
  · simpa using hps.patchChecksum_serialise pageFlagsEos (if s.tagpend then 0 else lastGranule s)
  · rw [ht.pendingSamples_eq]
    simp [Nat.mod_eq_of_lt s.gran.isLt]

end

section
variable {s t : State} {flags : Byte} {granule : BitVec 64} {ps : List Packet} {pages : List (List Byte)}

/-- The page emitted is the new last page of the stream (R123). -/
theorem Emission.pagesOf_out (h : Emission s t flags granule ps) (hpages : pagesOf s.out = some pages) :
    pagesOf t.out = some (pages ++ [packedPage flags granule s.serial s.seq ps]) := by
  rw [h.out_eq]
  exact pagesOf_append hpages (wholePage_packedPage _ _ _ _ h.segs_le)

/-- A page is emitted into an open stream. -/
theorem Emission.streamPhase_eq (h : Emission s t flags granule ps) : streamPhase s.phase = true := by
  cases h.stage with
  | head hs | flush hs | finish hs => simp [hs, streamPhase]

theorem Emission.phase_ne_done (h : Emission s t flags granule ps) : s.phase ≠ .done := by
  cases h.stage with
  | head hs | flush hs | finish hs => simp [hs]

/-- A page of a stream with one more behind it is an old page or the new one. -/
theorem getElem?_concat_cases {α : Type} {xs : List α} {x y : α} {k : Nat} (h : (xs ++ [x])[k]? = some y) :
    (k < xs.length ∧ xs[k]? = some y) ∨ (k = xs.length ∧ y = x) := by
  rcases lt_trichotomy k xs.length with hk | rfl | hk
  · exact .inl ⟨hk, by rwa [List.getElem?_append_left hk] at h⟩
  · exact .inr ⟨rfl, by simpa using h.symm⟩
  · rw [List.getElem?_eq_none (by simp only [List.length_append, List.length_singleton]; omega)] at h
    cases h

end
end Sys2Proof.Machine

namespace Sys2Proof.Machine

/-! ### Every command keeps the invariants of the output stream (R30 (h), R122 to R126) -/

section
variable {s t : State} {i : Instr} {flags : Byte} {granule : BitVec 64} {ps : List Packet} {pages : List (List Byte)}

/-- `OUT` splits into pages in one way. -/
theorem pagesOf_unique {bytes : List Byte} {pages pages' : List (List Byte)} (h : pagesOf bytes = some pages)
    (h' : pagesOf bytes = some pages') : pages' = pages :=
  Option.some.inj (h'.symm.trans h)

/-! R30 (h). -/

/-- How many pages stand in `OUT` before the next one is emitted (R115). -/
theorem Emission.length_pages (h : Emission s t flags granule ps) (hpages : pagesOf s.out = some pages)
    (hinv : PagesInv s) :
    s.seq = BitVec.ofNat 32 pages.length ∧ (s.phase = .head → pages.length = 0) ∧
      (s.phase = .audio → 1 ≤ pages.length ∧ (s.tagpend = true ↔ pages.length = 1)) := by
  obtain ⟨pages', hpages', hseq, hhead, hone, htwo⟩ := hinv
  obtain rfl := pagesOf_unique hpages hpages'
  refine ⟨hseq h.streamPhase_eq, hhead, fun haudio => ?_⟩
  cases htag : s.tagpend with
  | true =>
    have hlen := hone (.inr ⟨haudio, htag⟩)
    exact ⟨by omega, by simpa using hlen⟩
  | false =>
    have hlen := htwo (.inr ⟨haudio, htag⟩)
    exact ⟨by omega, by simp; omega⟩

theorem Emission.pagesInv (h : Emission s t flags granule ps) (hinv : PagesInv s) : PagesInv t := by
  obtain ⟨pages, hpages, -⟩ := id hinv
  obtain ⟨hseq, hhead, haudio⟩ := h.length_pages hpages hinv
  refine ⟨_, h.pagesOf_out hpages, fun _ => ?_, ?_⟩
  · rw [h.seq_eq, hseq, List.length_append]
    simp [BitVec.ofNat_add]
  · cases h.stage with
    | head hs ht => simp [ht, hhead hs]
    | flush hs ht => simp [ht, h.tagpend_eq, (haudio hs).1]
    | finish hs ht => simp [ht, (haudio hs).1]

theorem pagesInv_opened (hout : t.out = []) (hseq : t.seq = 0) (hphase : t.phase = .head) : PagesInv t :=
  ⟨[], by simp [hout], by simp [hseq], by simp, by simp [hphase], by simp [hphase]⟩

theorem pagesInv_effect (hb : BlockInv s) (h : PagesInv s) (heffect : Effect s i t) : PagesInv t := by
  cases heffect with
  | nop | dropped | responded | crcCleared | crcStepped | crcFolded | measured | audioJoined => exact h
  | rst | faulted => exact pagesInv_of_out_nil rfl rfl
  | opened => exact pagesInv_opened rfl rfl rfl
  | headEmitted data hphase hsegs => exact (emission_headEmitted hb hphase hsegs).pagesInv h
  | tagsHeld data hphase =>
    obtain ⟨pages, hpages, hseq, -, hone, -⟩ := h
    exact ⟨pages, hpages, fun _ => hseq (by simp [hphase, streamPhase]), by simp, fun _ => hone (.inl hphase), by simp⟩
  | audioFlushed data d hphase hd => exact (emission_audioFlushed hb hphase hd).pagesInv h
  | finished hphase => exact (emission_finished hb hphase).pagesInv h

/-! R122, R124: what holds of every page by itself. -/

/-- `OUT` splits into pages that meet `Q`. -/
def EveryPage (Q : List Byte → Prop) (s : State) : Prop := ∃ pages, pagesOf s.out = some pages ∧ ∀ page ∈ pages, Q page

theorem Emission.everyPage {Q : List Byte → Prop} (h : Emission s t flags granule ps) (hinv : EveryPage Q s)
    (hQ : Q (packedPage flags granule s.serial s.seq ps)) : EveryPage Q t := by
  obtain ⟨pages, hpages, hall⟩ := hinv
  refine ⟨_, h.pagesOf_out hpages, ?_⟩
  simp only [List.mem_append, List.mem_singleton]
  rintro page (hpage | rfl)
  · exact hall page hpage
  · exact hQ

/-- What every finished page of whole packets meets, every page of `OUT` does. -/
theorem everyPage_effect {Q : List Byte → Prop}
    (hQ : ∀ flags granule serial seq ps, ps ≠ [] → segsOf ps ≤ 255 → Q (packedPage flags granule serial seq ps))
    (hb : BlockInv s) (h : EveryPage Q s) (heffect : Effect s i t) : EveryPage Q t := by
  have hemit : ∀ {t flags granule ps}, Emission s t flags granule ps → EveryPage Q t := fun he =>
    he.everyPage h (hQ _ _ _ _ _ he.ne_nil he.segs_le)
  cases heffect with
  | nop | dropped | responded | crcCleared | crcStepped | crcFolded | measured | tagsHeld | audioJoined => exact h
  | rst | faulted | opened => exact ⟨[], rfl, nofun⟩
  | headEmitted data hphase hsegs => exact hemit (emission_headEmitted hb hphase hsegs)
  | audioFlushed data d hphase hd => exact hemit (emission_audioFlushed hb hphase hd)
  | finished hphase => exact hemit (emission_finished hb hphase)

theorem checksumInv_effect (hb : BlockInv s) (h : ChecksumInv s) (heffect : Effect s i t) : ChecksumInv t :=
  everyPage_effect (fun _ _ _ _ _ _ _ => pageVerifies_packedPage ..) hb h heffect

theorem lacingInv_effect (hb : BlockInv s) (h : LacingInv s) (heffect : Effect s i t) : LacingInv t := by
  refine everyPage_effect (fun flags granule serial seq ps hne hsegs => ?_) hb h heffect
  rw [pageSegCount_packedPage _ _ _ _ hsegs, pagePackets_packedPage _ _ _ _ hsegs]
  exact ⟨segsOf_pos hne, rfl⟩

/-! R126. -/

theorem Emission.sequenceInv (h : Emission s t flags granule ps) (hpagesInv : PagesInv s) (hinv : SequenceInv s) :
    SequenceInv t := by
  obtain ⟨pages, hpages, hall⟩ := hinv
  obtain ⟨hseq, hhead, haudio⟩ := h.length_pages hpages hpagesInv
  refine ⟨_, h.pagesOf_out hpages, fun k page hk => ?_⟩
  obtain ⟨hlt, hold⟩ | ⟨rfl, rfl⟩ := getElem?_concat_cases hk
  · obtain ⟨hpageSeq, hserial, hflags⟩ := hall k page hold
    refine ⟨hpageSeq, h.serial_eq ▸ hserial, ?_⟩
    have hlast : k + 1 ≠ pages.length + 1 := by omega
    simpa [h.phase_ne_done, hlast.symm, hlt.ne] using hflags
  · refine ⟨by simp [hseq], by simp [h.serial_eq], ?_⟩
    have hpos : s.phase = .audio → pages.length ≠ 0 := fun hp => Nat.one_le_iff_ne_zero.1 (haudio hp).1
    rw [pageFlags_packedPage]
    cases h.stage with
    | head hs ht => simp [hhead hs, pageFlagsBos]
    | flush hs ht => simp [hpos hs, ht, pageFlagsNone]
    | finish hs ht => simp [hpos hs, ht, pageFlagsEos]

/-- While the stream is open no page is the last. -/
theorem SequenceInv.of_open (h : SequenceInv s) (hout : t.out = s.out) (hserial : t.serial = s.serial)
    (hs : s.phase ≠ .done) (ht : t.phase ≠ .done) : SequenceInv t := by
  obtain ⟨pages, hpages, hall⟩ := h
  refine ⟨pages, hout ▸ hpages, fun k page hk => ?_⟩
  simpa [hserial, hs, ht] using hall k page hk

theorem sequenceInv_effect (hb : BlockInv s) (hpages : PagesInv s) (h : SequenceInv s) (heffect : Effect s i t) :
    SequenceInv t := by
  cases heffect with
  | nop | dropped | responded | crcCleared | crcStepped | crcFolded | measured => exact h
  | rst | faulted | opened => exact sequenceInv_of_out_nil rfl
  | headEmitted data hphase hsegs => exact (emission_headEmitted hb hphase hsegs).sequenceInv hpages h
  | tagsHeld data hphase => exact h.of_open (by simp) (by simp) (by simp [hphase]) (by simp)
  | audioJoined data d hphase => exact h.of_open (by simp) (by simp) (by simp [hphase]) (by simp [hphase])
  | audioFlushed data d hphase hd => exact (emission_audioFlushed hb hphase hd).sequenceInv hpages h
  | finished hphase => exact (emission_finished hb hphase).sequenceInv hpages h

/-! R125, R113, R19. -/

@[simp] theorem packetsOf_append (xs ys : List (List Byte)) : packetsOf (xs ++ ys) = packetsOf xs ++ packetsOf ys := by
  simp [packetsOf]

/-- The page emitted turns the pending samples into samples of `OUT`: none while it is page 0 or 1. -/
theorem Emission.totalSamples_out (h : Emission s t flags granule ps) (hpages : pagesOf s.out = some pages)
    (hpagesInv : PagesInv s) :
    totalSamples (packetsOf ((pages ++ [packedPage flags granule s.serial s.seq ps]).drop 2)) =
      totalSamples (packetsOf (pages.drop 2)) + pendingSamples s := by
  obtain ⟨-, hhead, haudio⟩ := h.length_pages hpages hpagesInv
  have hpackets : packetsOf [packedPage flags granule s.serial s.seq ps] = ps := by
    simp [packetsOf, pagePackets_packedPage _ _ _ _ h.segs_le]
  rw [h.pending_eq]
  split
  case isTrue hp =>
    obtain ⟨hphase, htag⟩ := hp
    have hlen : 2 ≤ pages.length := by
      obtain ⟨hpos, hheld⟩ := haudio hphase
      simp only [htag, Bool.false_eq_true, false_iff] at hheld
      omega
    rw [List.drop_append_of_le_length hlen, packetsOf_append, totalSamples_append, hpackets]
  case isFalse hp =>
    have hlen : pages.length ≤ 1 := by
      cases h.stage with
      | head hs => simp [hhead hs]
      | flush hs | finish hs =>
        have htag : s.tagpend = true := by simpa [hs] using hp
        exact ((haudio hs).2.1 htag).le
    rw [List.drop_eq_nil_of_le (by simp only [List.length_append, List.length_singleton]; omega),
      List.drop_eq_nil_of_le (by omega)]
    rfl

theorem Emission.granuleInv (h : Emission s t flags granule ps) (hpagesInv : PagesInv s) (hinv : GranuleInv s) :
    GranuleInv t := by
  obtain ⟨pages, hpages, hfirst, haudioPages, hgran⟩ := hinv
  obtain ⟨-, hhead, haudio⟩ := h.length_pages hpages hpagesInv
  have htotal := h.totalSamples_out hpages hpagesInv
  have hgran' : s.gran.toNat = (totalSamples (packetsOf (pages.drop 2)) + pendingSamples s) % 2 ^ 64 :=
    hgran h.streamPhase_eq
  obtain ⟨hfinalv, hfinal⟩ := h.final_eq
  refine ⟨_, h.pagesOf_out hpages, fun k page hk hlt2 => ?_, fun k page hk hle2 => ?_, fun _ => ?_⟩
  · obtain ⟨-, hold⟩ | ⟨rfl, rfl⟩ := getElem?_concat_cases hk
    · exact hfirst k page hold hlt2
    · rw [pageGranule_packedPage]
      cases h.stage with
      | head => rfl
      | flush hs | finish hs =>
        obtain ⟨hpos, hheld⟩ := haudio hs
        simp [hheld.2 (by omega)]
  · obtain ⟨hlt, hold⟩ | ⟨rfl, rfl⟩ := getElem?_concat_cases hk
    · have hpage := haudioPages k page hold hle2
      have hlast : k ≠ pages.length := hlt.ne
      rw [List.take_append_of_le_length (by omega)]
      simpa [h.phase_ne_done, hlast] using hpage
    · have htag : s.phase = .audio → s.tagpend = false := fun hs => Bool.eq_false_iff.2 fun htrue => by
        have := (haudio hs).2.1 htrue
        omega
      rw [pageGranule_packedPage, List.take_of_length_le (by simp), htotal, ← hgran']
      cases h.stage with
      | head hs => exact absurd (hhead hs) (by omega)
      | flush hs ht => simp [htag hs, ht]
      | finish hs ht =>
        cases hknown : s.finalv with
        | true => simp [htag hs, ht, lastGranule, hfinalv, hfinal, hknown]
        | false => simp [htag hs, ht, lastGranule, hfinalv, hknown]
  · rw [htotal, h.gran_eq, hgran']
    exact Nat.mod_add_mod ..

/-- While the stream is open and its pages stay, it is enough to account for the packets pending (R19). -/
theorem GranuleInv.of_open (h : GranuleInv s) (hs : streamPhase s.phase = true ∧ s.phase ≠ .done) (ht : t.phase ≠ .done)
    (hout : t.out = s.out)
    (hgran : t.gran.toNat + pendingSamples s ≡ s.gran.toNat + pendingSamples t [MOD 2 ^ 64]) : GranuleInv t := by
  obtain ⟨pages, hpages, hfirst, haudioPages, hgran₀⟩ := h
  refine ⟨pages, hout ▸ hpages, hfirst, fun k page hk hle2 => ?_, fun _ => ?_⟩
  · simpa [hs.2, ht] using haudioPages k page hk hle2
  · have hs' : s.gran.toNat = (totalSamples (packetsOf (pages.drop 2)) + pendingSamples s) % 2 ^ 64 := hgran₀ hs.1
    have hlt := t.gran.isLt
    change _ = (_ + pendingSamples t) % 2 ^ 64
    unfold Nat.ModEq at hgran
    omega

theorem granuleInv_opened (hout : t.out = []) (hgran : t.gran = 0) (hsegtab : t.segtab = []) (hpayload : t.payload = []) :
    GranuleInv t :=
  ⟨[], by simp [hout], by simp, by simp, by simp [hgran, hsegtab, hpayload, packetsOf, unlace, unlaceFrom]⟩

theorem granuleInv_effect (hb : BlockInv s) (hpages : PagesInv s) (h : GranuleInv s) (heffect : Effect s i t) :
    GranuleInv t := by
  cases heffect with
  | nop | dropped | responded | crcCleared | crcStepped | crcFolded | measured => exact h
  | rst | faulted => exact granuleInv_of_out_nil rfl rfl
  | opened => exact granuleInv_opened rfl rfl rfl rfl
  | headEmitted data hphase hsegs => exact (emission_headEmitted hb hphase hsegs).granuleInv hpages h
  | tagsHeld data hphase =>
    have hnil := hb.holdsPackets_nil (.inr (.inr (.inl hphase)))
    refine h.of_open (by simp [hphase, streamPhase]) (by simp) (by simp) ?_
    rw [hnil.pendingSamples_eq]
    simp [pendingSamples, Nat.ModEq]
  | audioJoined data d hphase hd htag =>
    have hps := hb.holdsPackets
    have ht : HoldsPackets (countPacket d.n (appendPacket data (setDuration d s))) (unlace s.segtab s.payload ++ [data]) :=
      ⟨by simp [← hps.segtab_eq], by simp [← hps.payload_eq]⟩
    refine h.of_open (by simp [hphase, streamPhase]) (by simp [hphase]) (by simp) ?_
    rw [hps.pendingSamples_eq, ht.pendingSamples_eq]
    simp only [htag, totalSamples_append, totalSamples_singleton hd, Nat.ModEq, BitVec.toNat_add, BitVec.toNat_ofNat,
      countPacket_tagpend, countPacket_gran, appendPacket_tagpend, appendPacket_gran, setDuration_tagpend, setDuration_gran,
      Bool.false_eq_true, if_false]
    omega
  | audioFlushed data d hphase hd => exact (emission_audioFlushed hb hphase hd).granuleInv hpages h
  | finished hphase => exact (emission_finished hb hphase).granuleInv hpages h

/-! The output stream as a whole. -/

theorem streamInv_effect (hb : BlockInv s) (h : StreamInv s) (heffect : Effect s i t) : StreamInv t := by
  obtain ⟨hpages, hchecksum, hlacing, hsequence, hgranule⟩ := h
  exact ⟨pagesInv_effect hb hpages heffect, checksumInv_effect hb hchecksum heffect, lacingInv_effect hb hlacing heffect,
    sequenceInv_effect hb hpages hsequence heffect, granuleInv_effect hb hpages hgranule heffect⟩

/-- The decoder's own fault leaves the output stream as it is, in phase `FAULT`, or withdraws it (R155, R160). -/
theorem raiseIllegalCommand_cases (s : State) (op : Byte) :
    (∃ desync, raiseIllegalCommand op s = { s with desync := desync }) ∨
      (raiseIllegalCommand op s).out = [] ∧ streamPhase (raiseIllegalCommand op s).phase = false := by
  by_cases h : s.phase = .fault
  · exact .inl ⟨true, by rw [raiseIllegalCommand, raise_of_fault s _ _ _ h]⟩
  · exact .inr (by rw [raiseIllegalCommand, raise_of_ne s _ _ _ h]; exact ⟨rfl, rfl⟩)

end

/-- The induction step of an invariant of the output stream that reads neither `CMD` nor `DESYNC`: it is enough that it holds
of an empty stream and that the commands keep it where the block's invariant holds. -/
theorem step_keeps_stream {P : State → Prop} (hcmd : ∀ s cmd, P s → P { s with cmd := cmd })
    (hdesync : ∀ s desync, P s → P { s with desync := desync })
    (hnil : ∀ t : State, t.out = [] → streamPhase t.phase = false → P t)
    (heffect : ∀ s i t, BlockInv s → P s → Effect s i t → P t)
    {s t : State} (hb : BlockInv s) (h : P s) (hstep : step s = .next t) : P t := by
  have hkept : BlockInv t ∧ P t := by
    refine step_keeps (P := fun s => BlockInv s ∧ P s) ?_ ?_ ?_ ⟨hb, h⟩ hstep
    · exact fun s cmd ⟨hb, h⟩ => ⟨hb.withStreams cmd s.rsp, hcmd s cmd h⟩
    · exact fun s i t ⟨hb, h⟩ he => ⟨hb.effect he, heffect s i t hb h he⟩
    · rintro s op ⟨hb, h⟩
      refine ⟨blockInv_raiseIllegalCommand hb op, ?_⟩
      obtain ⟨desync, heq⟩ | ⟨hout, hphase⟩ := raiseIllegalCommand_cases s op
      · rw [heq]; exact hdesync s desync h
      · exact hnil _ hout hphase
  exact hkept.2

/-- Settles O49: a command emits at most one page, and counts it; a fault or a new stream begins with none. -/
theorem stepKeepsPageCount : Obligations.StepKeepsPageCount := by
  intro s t hb hpages hstep
  exact step_keeps_stream (P := PagesInv) (fun _ _ h => h) (fun _ _ h => h) (fun _ => pagesInv_of_out_nil)
    (fun _ _ _ => pagesInv_effect) hb hpages hstep

/-- A step keeps all the invariants of the output stream together. -/
theorem step_keeps_streamInv {s t : State} (hb : BlockInv s) (h : StreamInv s) (hstep : step s = .next t) : StreamInv t :=
  step_keeps_stream (P := StreamInv) (fun _ _ h => h) (fun _ _ h => h) (fun _ => streamInv_of_out_nil)
    (fun _ _ _ => streamInv_effect) hb h hstep

/-- Settles O55, by induction on the events: the invariants hold at reset, and steps and the acts of the host keep them. -/
theorem reachableStatesMeetInvariants : Obligations.ReachableStatesMeetInvariants := by
  intro cap s hreach
  induction hreach with
  | reset => exact ⟨resetWith_blockInv cap, resetWith_streamInv cap⟩
  | event e s t _ hevent ih =>
    by_cases he : e = .step
    · subst he
      obtain ⟨hb, hstream⟩ := ih
      exact ⟨stepKeepsBlockInvariant s t hb hevent, step_keeps_streamInv hb hstream hevent⟩
    · exact hostActsKeepInvariants e s t he ih.1 ih.2 hevent

/-- Settles O46: the reset state has nothing pending and nothing in `OUT`. -/
theorem invariantsHoldAtReset : Obligations.InvariantsHoldAtReset :=
  fun cap => ⟨resetWith_blockInv cap, resetWith_streamInv cap⟩

end Sys2Proof.Machine

namespace Sys2Proof.Machine

/-! ### `RD` and `STATUS` (R12, R13) -/

/-- `RD` of a register responds with its value (R142). -/
theorem exec_rd_of_readReg {reg : Byte} {v : BitVec 64} {s : State} (h : readReg reg s = some v) :
    exec (.rd reg) s = .next (respond v s) := by
  simp [exec, execRd, h]

/-- A count within its register's width is read whole. -/
theorem setWidth_ofNat_of_lt {w n : Nat} (h : n < 2 ^ w) : (BitVec.ofNat w n).setWidth 64 = BitVec.ofNat 64 n := by
  rw [← BitVec.ofNat_toNat, BitVec.toNat_ofNat, Nat.mod_eq_of_lt h]

/-- Settles O24: the register map holds each value zero-extended; `SEGCNT` and `PAYLEN` fit their widths by `Memory.wf`. -/
theorem rdRespondsWithRegister : Obligations.RdRespondsWithRegister := by
  intro s hwf e he
  obtain ⟨hsegtab, hpayload, -⟩ := (Memory.wf_iff s).1 hwf
  have hsegcnt : (BitVec.ofNat 8 s.segcnt).setWidth 64 = BitVec.ofNat 64 s.segcnt :=
    setWidth_ofNat_of_lt (Nat.lt_succ_of_le hsegtab)
  have hpaylen : (BitVec.ofNat 17 s.paylen).setWidth 64 = BitVec.ofNat 64 s.paylen :=
    setWidth_ofNat_of_lt (hpayload.trans_lt (by decide))
  refine exec_rd_of_readReg ?_
  revert e
  simp [readReg, hsegcnt, hpaylen]

/-- The lowest three bits of `STATUS` are the phase's number (R13). -/
theorem statusWord_mod (s : State) : (statusWord s).toNat % 8 = (phaseCode s.phase).toNat := by
  have hlt : (phaseCode s.phase).toNat < 8 := (phaseCode s.phase).isLt
  rw [statusWord, BitVec.toNat_append, show 8 = 2 ^ 3 from rfl, Nat.or_mod_two_pow, Nat.shiftLeft_eq, Nat.mul_mod_left,
    Nat.zero_or, Nat.mod_eq_of_lt hlt]

/-- Bit by bit, the part of `STATUS` above the phase. -/
theorem statusWord_getLsbD (s : State) :
    (statusWord s).getLsbD 3 = s.tagpend ∧ (statusWord s).getLsbD 4 = s.finalv ∧ (statusWord s).getLsbD 5 = s.desync ∧
      ∀ k, 6 ≤ k → (statusWord s).getLsbD k = false := by
  simp only [statusWord, BitVec.getLsbD_append, BitVec.getLsbD_ofBool]
  refine ⟨by simp, by simp, by simp, fun k hk => ?_⟩
  have h1 : ¬ k < 3 := by omega
  have h2 : k - 3 ≠ 0 := by omega
  have h3 : k - 3 - 1 ≠ 0 := by omega
  have h4 : k - 3 - 1 - 1 ≠ 0 := by omega
  simp [h1, h2, h3, h4]

/-- The decoder finds a command only while it runs (R28). -/
theorem desync_of_fetchCommand {s : State} {i : Instr} {rest : List Byte} (h : fetchCommand s = .command i rest) :
    s.desync = false := by
  unfold fetchCommand at h
  split at h
  case isTrue => cases h
  case isFalse hd => exact Bool.eq_false_iff.2 hd

/-- A step that fetches a command is its execution, on the state with its bytes taken (R61, R62). -/
theorem step_of_fetchCommand {s : State} {i : Instr} {rest : List Byte} (h : fetchCommand s = .command i rest) :
    step s = exec i (takeCommand rest s) := by
  rw [step, h]

/-- Settles O26: the layout field by field; a step executes `RD` only where `DESYNC` is 0. -/
theorem statusLayout : Obligations.StatusLayout := by
  refine ⟨fun s => ⟨?_, statusWord_getLsbD s⟩, fun s t rest hfetch hstep => ?_⟩
  · rw [statusWord_mod]
    cases s.phase <;> rfl
  · rw [step_of_fetchCommand hfetch, exec_rd_of_readReg rfl] at hstep
    cases hstep
    obtain ⟨-, -, hbit, -⟩ := statusWord_getLsbD (takeCommand rest s)
    refine ⟨_, rfl, ?_⟩
    rw [BitVec.getLsbD_setWidth, hbit]
    simp [desync_of_fetchCommand hfetch]

/-! ### Reset and the desynchronised block (R28, R33, R155) -/

/-- A desynchronised block waits (R28). -/
theorem step_of_desync {s : State} (h : s.desync = true) : step s = .next s := by
  simp [step, fetchCommand, h, waitForCommand]

/-- Settles O9: a step of a desynchronised block waits, and of the host's acts only the hardware reset touches a register. -/
theorem onlyHardwareResetResynchronises : Obligations.OnlyHardwareResetResynchronises := by
  intro e s t hdesync hevent
  cases e with
  | step =>
    cases (step_of_desync hdesync).symm.trans hevent
    exact .inr ⟨nofun, rfl, fun _ => rfl⟩
  | send bytes => cases hevent; exact .inr ⟨nofun, rfl, nofun⟩
  | takeResponse => cases hevent; exact .inr ⟨nofun, rfl, nofun⟩
  | hardReset => cases hevent; exact .inl ⟨rfl, rfl, rfl⟩

/-- Settles O23: both resets are `State.resetWith` but for the two streams. -/
theorem resetsZeroEveryRegister : Obligations.ResetsZeroEveryRegister :=
  ⟨rfl, fun _ => ⟨rfl, rfl⟩⟩

/-! ### The phase table (R15) and the writers of the registers (R12) -/

/-- Outside phase `FAULT` no command is dropped (R15, R162). -/
theorem phaseTable_ne_drop (o : Opcode) {p : Phase} (hp : p ≠ .fault) : phaseTable o p ≠ .drop := by
  cases p with
  | fault => exact absurd rfl hp
  | _ => cases o <;> decide

/-- In phase `FAULT` every command but `RST` is dropped or stays there (R15, R162). -/
theorem phaseTable_fault {i : Instr} (hrst : i ≠ .rst) :
    phaseTable i.opcode .fault = .drop ∨ phaseTable i.opcode .fault = .leadsTo .fault := by
  cases i with
  | rst => exact absurd rfl hrst
  | nop | rd => exact .inr rfl
  | _ => exact .inl rfl

section
variable {s t : State} {i : Instr}

/-- A command that takes effect in a phase in which R15 names a phase for it goes there; otherwise it was dropped, or it
raised a fault, which is `SequenceError` exactly in a cell that reads `Seq`. -/
theorem Effect.cell_cases (h : Effect s i t) :
    phaseTable i.opcode s.phase = .leadsTo t.phase ∨ (phaseTable i.opcode s.phase = .drop ∧ t = s) ∨
      ∃ f, s.phase ≠ .fault ∧ mayRaise f i.opcode = true ∧
        (f = .sequenceError ↔ phaseTable i.opcode s.phase = .sequenceError) ∧
        t = enterFault f (faultInfo f i s) (opcodeByte i.opcode) s := by
  cases h with
  | nop | rst | responded => exact .inl rfl
  | dropped _ hphase hrst =>
    rw [hphase]
    obtain hcell | hcell := phaseTable_fault hrst
    · exact .inr (.inl ⟨hcell, rfl⟩)
    · exact .inl hcell
  | faulted _ f hphase hmay hseq => exact .inr (.inr ⟨f, hphase, hmay, hseq, rfl⟩)
  | crcCleared hphase | crcStepped _ hphase | crcFolded _ hphase | measured _ _ hphase =>
    exact .inl (phaseTable_of_unit (by simp [Instr.opcode]) hphase)
  | opened _ _ _ hphase => obtain hp | hp := hphase <;> exact .inl (by rw [hp]; rfl)
  | headEmitted _ hphase | tagsHeld _ hphase | finished hphase => exact .inl (by rw [hphase]; rfl)
  | audioJoined _ _ hphase | audioFlushed _ _ hphase => exact .inl (by simp [hphase, Instr.opcode, phaseTable])

/-- Settles O37: `Effect.cell_cases`, read cell by cell. -/
theorem phaseTableIsComplete : Obligations.PhaseTableIsComplete := by
  intro i s
  obtain ⟨t, hexec, heffect⟩ := exec_effect i s
  obtain hcell | ⟨hcell, rfl⟩ | ⟨f, hphase, hmay, hseq, rfl⟩ := heffect.cell_cases
  · rw [hcell]
    exact ⟨t, hexec, .inl rfl⟩
  · rw [hcell]
    exact hexec
  · cases hcell : phaseTable i.opcode s.phase with
    | leadsTo p =>
      have hf : f ≠ .sequenceError := fun hf => nomatch hcell.symm.trans (hseq.1 hf)
      exact ⟨_, hexec, .inr ⟨hphase, f, hf, hmay, rfl⟩⟩
    | sequenceError =>
      obtain rfl := hseq.2 hcell
      rw [faultInfo, BitVec.ofNat_toNat] at hexec
      exact hexec
    | drop => exact absurd hcell (phaseTable_ne_drop _ hphase)

/-- Settles O41: the writers of R12's registers, constructor by constructor of `Effect`. -/
theorem registersChangeOnlyByTheirWriters : Obligations.RegistersChangeOnlyByTheirWriters := by
  intro i s t hrst hexec
  cases effect_of_exec hexec with
  | rst => exact absurd rfl hrst
  | nop | dropped | responded => simp
  | faulted i f hphase => simp [hphase]
  | crcCleared | crcStepped | crcFolded => simp [Instr.opcode, mayWriteCrc]
  | measured => simp [Instr.opcode, mayWriteDuration]
  | opened => simp [Instr.opcode, mayWriteSeq, mayWriteCounts, mayWritePending]
  | headEmitted => simp [Instr.opcode, mayWriteCrc, mayWriteSeq, mayWritePending]
  | tagsHeld => simp [Instr.opcode, mayWritePending]
  | audioJoined => simp [Instr.opcode, mayWriteDuration, mayWriteCounts, mayWritePending]
  | audioFlushed =>
    simp [Instr.opcode, mayWriteCrc, mayWriteDuration, mayWriteSeq, mayWriteCounts, mayWritePending]
  | finished => simp [Instr.opcode, mayWriteCrc, mayWriteSeq, mayWritePending]

end
end Sys2Proof.Machine

namespace Sys2Proof.Machine

/-! ### A command's encoding, decoded again (R61, R63 to R69) -/

theorem opcodeOf_opcodeByte (o : Opcode) : opcodeOf (opcodeByte o) = some o := by
  cases o <;> rfl

/-- Format B (R65): the payload's length fits the `len` field. -/
theorem decodeB_encodePayload (mk : List Byte → Instr) {data : List Byte} (h : data.length < 2 ^ Config.lenWidth)
    (rest : List Byte) : decodeB mk (encodePayload data ++ rest) = .command (mk data) rest := by
  have hlen : leValue (memRead (encodePayload data ++ rest) 0 4) = data.length := leValue_leBytes 4 _ h
  have hread : memRead (encodePayload data ++ rest) 4 data.length = data := List.take_left
  have hdrop : (encodePayload data ++ rest).drop (4 + data.length) = rest := by
    rw [← Laws.EncodedLength.encodePayload_length, List.drop_left]
  have hwhole : ¬ (encodePayload data ++ rest).length < 4 + data.length := by
    rw [List.length_append, Laws.EncodedLength.encodePayload_length]
    omega
  simp only [decodeB, hlen, hread, hdrop, if_neg hwhole]

/-- Format O (R66): three fields of fixed width. -/
theorem decodeO_encodeOperands (serial : BitVec 32) (preskip : BitVec 16) (nsamp : BitVec 32) (rest : List Byte) :
    decodeO (encodeOperands (.strOpen serial preskip nsamp) ++ rest) = .command (.strOpen serial preskip nsamp) rest := by
  generalize hbytes : encodeOperands (.strOpen serial preskip nsamp) ++ rest = bytes
  have hserial : leValue (memRead bytes 0 4) = serial.toNat := by subst hbytes; exact leValue_leBytes 4 _ serial.isLt
  have hpreskip : leValue (memRead bytes 4 2) = preskip.toNat := by subst hbytes; exact leValue_leBytes 2 _ preskip.isLt
  have hnsamp : leValue (memRead bytes 6 4) = nsamp.toNat := by subst hbytes; exact leValue_leBytes 4 _ nsamp.isLt
  have hdrop : bytes.drop 10 = rest := by subst hbytes; rfl
  have hwhole : ¬ bytes.length < 10 := by
    simp only [← hbytes, encodeOperands, List.length_append, leBytes_length]
    omega
  simp only [decodeO, hserial, hpreskip, hnsamp, hdrop, if_neg hwhole, BitVec.ofNat_toNat, BitVec.setWidth_eq]

theorem decodeOperands_encodeOperands {i : Instr} (h : i.wellFormed = true) (rest : List Byte) :
    decodeOperands i.opcode (encodeOperands i ++ rest) = .command i rest := by
  have hpayload : i.payload.length < 2 ^ Config.lenWidth := of_decide_eq_true h
  cases i with
  | nop | rst | rd | crcClr | crcUpd8 | strFin => rfl
  | crcUpd | durCalc | pktHead | pktTags | pktAud =>
    simp only [Instr.opcode, decodeOperands, encodeOperands]
    exact decodeB_encodePayload _ hpayload rest
  | strOpen serial preskip nsamp => exact decodeO_encodeOperands serial preskip nsamp rest

/-- The decoder reads a command's encoding as that command and leaves what follows. -/
theorem decode_encode_append {i : Instr} (h : i.wellFormed = true) (rest : List Byte) :
    decode (encode i ++ rest) = .command i rest := by
  rw [encode, List.cons_append, decode, opcodeOf_opcodeByte]
  exact decodeOperands_encodeOperands h rest

/-! ### A command reads and writes nothing of `CMD` (R55, R61) -/

section
variable {rest : List Byte} {s : State}

theorem ite_takeCommand {p : Prop} [Decidable p] {a b a' b' : State} (ha : a' = takeCommand rest a)
    (hb : b' = takeCommand rest b) : (if p then a' else b') = takeCommand rest (if p then a else b) := by
  rw [ha, hb, apply_ite (takeCommand rest)]

theorem raise_takeCommand (f : FaultCode) (info : BitVec 32) (op : Byte) :
    raise f info op (takeCommand rest s) = takeCommand rest (raise f info op s) :=
  ite_takeCommand rfl rfl

/-- A guard that raises a fault or goes on. -/
theorem guard_takeCommand {p : Prop} [Decidable p] {f : FaultCode} {info : BitVec 32} {op : Byte} {b b' : State}
    (hb : b' = takeCommand rest b) :
    (if p then raise f info op (takeCommand rest s) else b') = takeCommand rest (if p then raise f info op s else b) :=
  ite_takeCommand (raise_takeCommand ..) hb

theorem unlessFault_takeCommand {effect : State → State} (h : effect (takeCommand rest s) = takeCommand rest (effect s)) :
    unlessFault effect (takeCommand rest s) = takeCommand rest (unlessFault effect s) :=
  ite_takeCommand rfl h

theorem placeAudio_takeCommand (d : Duration) (data : Packet) :
    placeAudio d data (takeCommand rest s) = takeCommand rest (placeAudio d data s) := by
  simp only [placeAudio]
  have hflush : mustFlush data (takeCommand rest s) = mustFlush data s := rfl
  rw [hflush]
  split <;> rfl

theorem execRd_takeCommand {reg : Byte} {t : State} (h : execRd reg s = .next t) :
    execRd reg (takeCommand rest s) = .next (takeCommand rest t) := by
  have hreg : readReg reg (takeCommand rest s) = readReg reg s := rfl
  unfold execRd at h ⊢
  split at h
  case h_1 v hv =>
    cases h
    rw [hreg, hv]
    rfl
  case h_2 hv =>
    cases h
    rw [hreg, hv]
    exact congrArg Host.Outcome.next (unlessFault_takeCommand (raise_takeCommand ..))

/-- What a command does, it does whatever bytes follow it in `CMD`, and it leaves them there. -/
theorem exec_takeCommand {i : Instr} {t : State} (h : exec i s = .next t) (rest : List Byte) :
    exec i (takeCommand rest s) = .next (takeCommand rest t) := by
  cases i with
  | nop | rst => cases h; rfl
  | rd reg => exact execRd_takeCommand h
  | crcClr | crcUpd8 | crcUpd => cases h; exact congrArg Host.Outcome.next (unlessFault_takeCommand rfl)
  | durCalc data =>
    cases h
    refine congrArg Host.Outcome.next (unlessFault_takeCommand ?_)
    cases nbSamples data with
    | error f => exact raise_takeCommand ..
    | ok d => rfl
  | strOpen => cases h; exact congrArg Host.Outcome.next (unlessFault_takeCommand (guard_takeCommand rfl))
  | pktHead =>
    cases h
    exact congrArg Host.Outcome.next
      (unlessFault_takeCommand (guard_takeCommand (guard_takeCommand (guard_takeCommand rfl))))
  | pktTags | strFin =>
    cases h
    exact congrArg Host.Outcome.next (unlessFault_takeCommand (guard_takeCommand (guard_takeCommand rfl)))
  | pktAud data =>
    cases h
    refine congrArg Host.Outcome.next (unlessFault_takeCommand (guard_takeCommand (guard_takeCommand ?_)))
    cases nbSamples data with
    | error f => exact raise_takeCommand ..
    | ok d => exact guard_takeCommand (placeAudio_takeCommand ..)

end

/-! ### Steps execute the commands of `CMD` in order (R52) -/

section
variable {s t : State} {i : Instr}

theorem Effect.cmd_eq (h : Effect s i t) : t.cmd = s.cmd := by
  cases h <;> rfl

/-- No command stops the decoder: `DESYNC` stays, or `RST` clears it (R28, R141). -/
theorem Effect.desync_eq_false (h : Effect s i t) (hs : s.desync = false) : t.desync = false := by
  cases h with
  | rst => rfl
  | _ => exact hs

theorem run_succ_of_step {M : Host.Core} {s t : M.State} (h : M.step s = .next t) (k : Nat) :
    M.run (k + 1) s = M.run k t := by
  rw [Host.Core.run, h]

theorem execAll_cons_of_exec (h : exec i s = .next t) (is : List Instr) : execAll (i :: is) s = execAll is t := by
  rw [execAll, h]

/-- A step of a synchronised block takes the command whose encoding is at the front of `CMD` and executes it (R61, R62). -/
theorem step_of_encode {rest : List Byte} (hdesync : s.desync = false) (hwf : i.wellFormed = true)
    (hcmd : s.cmd = encode i ++ rest) : step s = exec i (takeCommand rest s) := by
  refine step_of_fetchCommand ?_
  rw [fetchCommand, hdesync, hcmd, decode_encode_append hwf]
  rfl

end

/-- Settles O10, by induction on the commands: a step executes the first one (`step_of_encode`), and it does the same with
only `rest` behind it (`exec_takeCommand`). -/
theorem stepsRunCommandsInOrder : Obligations.StepsRunCommandsInOrder := by
  intro is
  induction is with
  | nil =>
    intro s rest _ _ hcmd
    have hs : { s with cmd := rest } = s := by rw [← show s.cmd = rest from hcmd]
    exact congrArg Host.Outcome.next hs.symm
  | cons i is ih =>
    intro s rest hwf hdesync hcmd
    obtain ⟨hi, his⟩ := List.forall_mem_cons.1 hwf
    rw [List.flatMap_cons, List.append_assoc] at hcmd
    obtain ⟨t, hexec, heffect⟩ := exec_effect i (takeCommand (is.flatMap encode ++ rest) s)
    have hstep : step s = .next t := (step_of_encode hdesync hi hcmd).trans hexec
    have hrest : exec i { s with cmd := rest } = .next { t with cmd := rest } := exec_takeCommand hexec rest
    rw [List.length_cons, run_succ_of_step (M := core) hstep, execAll_cons_of_exec hrest]
    exact ih t rest his (heffect.desync_eq_false hdesync) heffect.cmd_eq

end Sys2Proof.Machine

namespace Sys2Proof.Machine

/-! ### The bit-serial form of the checksum unit (R45, R90) -/

/-- One bit of the serial form: bit `k` of the byte meets the accumulator's top bit. -/
def serialRound (b : Byte) (c : BitVec 32) (k : Nat) : BitVec 32 :=
  if (c.getLsbD 31 ^^ b.getLsbD k) then (c <<< 1) ^^^ 0x04C11DB7#32 else c <<< 1

/-- A round shifts out what is added to the accumulator, and its top bit alone takes part in the choice. -/
theorem crcRound_xor (c x : BitVec 32) :
    crcRound (c ^^^ x) = (if (c.msb ^^ x.msb) then (c <<< 1) ^^^ Config.poly else c <<< 1) ^^^ (x <<< 1) := by
  rw [crcRound, BitVec.msb_xor, BitVec.shiftLeft_xor_distrib]
  split
  · rw [BitVec.xor_assoc, BitVec.xor_comm (x <<< 1), ← BitVec.xor_assoc]
  · rfl

/-- The byte, with its lowest `n + 1` bits at the top of a word, shows bit `n` there. -/
theorem msb_shiftLeft_byte (b : Byte) {n : Nat} (hn : n < 8) : (b.setWidth 32 <<< (32 - (n + 1))).msb = b.getLsbD n := by
  have hidx : 31 - (32 - (n + 1)) = n := by omega
  have hshift : ¬ 31 < 31 - n := by omega
  have hwidth : n < 32 := by omega
  rw [BitVec.msb_eq_getLsbD_last, BitVec.getLsbD_shiftLeft, BitVec.getLsbD_setWidth, hidx]
  simp [hshift, hwidth]

/-- `n` rounds on an accumulator that carries the lowest `n` bits of the byte at its top are the serial rounds for those
bits, the highest first. -/
theorem crcRounds_xor_shiftLeft (b : Byte) (n : Nat) (hn : n ≤ 8) (c : BitVec 32) :
    crcRounds n (c ^^^ (b.setWidth 32 <<< (32 - n))) = (List.range n).reverse.foldl (serialRound b) c := by
  induction n generalizing c with
  | zero => simp [crcRounds]
  | succ n ih =>
    have hround : crcRound (c ^^^ (b.setWidth 32 <<< (32 - (n + 1)))) =
        serialRound b c n ^^^ (b.setWidth 32 <<< (32 - n)) := by
      rw [crcRound_xor, msb_shiftLeft_byte b hn, ← BitVec.shiftLeft_add, BitVec.msb_eq_getLsbD_last,
        show 32 - (n + 1) + 1 = 32 - n by omega]
      rfl
    rw [crcRounds, hround, ih (by omega), List.range_succ, List.reverse_append]
    rfl

/-- Settles O11: the serial form, read for all eight bits of the byte. -/
theorem crcConsumesBitsMsbFirst : Obligations.CrcConsumesBitsMsbFirst :=
  fun c b => crcRounds_xor_shiftLeft b 8 le_rfl c

end Sys2Proof.Machine

namespace Sys2Proof.Machine

/-! ### What a command stores in the spaces (R41, R42) -/

section
variable {s t : State} {i : Instr}

/-- What a command other than `RST` and `STR.OPEN` that ends outside `FAULT` does to the three spaces: it leaves them; or
it stores its packet at the ends of `SEGTAB` and `PAYLOAD`; or it emits a page, which goes to the end of `OUT`. -/
inductive Stores (s t : State) (i : Instr) : Prop
  | nothing (hop : i.opcode ≠ .pktTags ∧ i.opcode ≠ .pktAud) (hspaces : ∀ sp, spaceBytes t sp = spaceBytes s sp)
  | packet (hop : i.opcode = .pktTags ∨ i.opcode = .pktAud) (hsegtab : t.segtab = s.segtab ++ lace i.payload.length)
      (hpayload : t.payload = s.payload ++ i.payload) (hout : t.out = s.out)
  | page (hseq : t.seq = s.seq + 1) (hout : s.out <+: t.out)

theorem Effect.stores (h : Effect s i t) (hrst : i ≠ .rst) (hopen : i.opcode ≠ .strOpen) (hphase : t.phase ≠ .fault) :
    Stores s t i := by
  cases h with
  | nop | responded | crcCleared | crcStepped | crcFolded | measured =>
    exact .nothing ⟨nofun, nofun⟩ fun sp => by cases sp <;> rfl
  | rst => exact absurd rfl hrst
  | opened => exact absurd rfl hopen
  | dropped _ hfault => exact absurd hfault hphase
  | faulted => exact absurd rfl hphase
  | tagsHeld data => exact .packet (.inl rfl) (by simp [Instr.payload]) (by simp [Instr.payload]) (by simp)
  | audioJoined data => exact .packet (.inr rfl) (by simp [Instr.payload]) (by simp [Instr.payload]) (by simp)
  | headEmitted | audioFlushed | finished => exact .page (by simp) (by simp)

/-- No byte of `OUT` is rewritten. -/
theorem Stores.out_prefix (h : Stores s t i) : s.out <+: t.out := by
  cases h with
  | nothing _ hspaces =>
    have hout : t.out = s.out := hspaces .out
    exact hout ▸ List.prefix_rfl
  | packet _ _ _ hout => exact hout ▸ List.prefix_rfl
  | page _ hout => exact hout

/-- Bytes stored behind a space leave its own bytes where they were. -/
theorem byteAt_of_prefix {sp : Space} {a : Nat} (h : spaceBytes s sp <+: spaceBytes t sp) (ha : a < (spaceBytes s sp).length) :
    byteAt t sp a = byteAt s sp a := by
  obtain ⟨stored, hstored⟩ := h
  rw [byteAt, byteAt, ← hstored, List.getElem?_append_left ha]

end

/-- Settles O43: whatever a command stores, it only extends `OUT` (`Stores.out_prefix`); `OUT_CAP` is part of the block's
invariant, which every command keeps. -/
theorem outIsAppendOnly : Obligations.OutIsAppendOnly := by
  intro i s t hexec
  have heffect := effect_of_exec hexec
  refine ⟨fun hrst hopen hphase => ?_, fun hb => (hb.effect heffect).out_fits⟩
  have hprefix : s.out <+: t.out := (heffect.stores hrst hopen hphase).out_prefix
  exact ⟨hprefix.length_le, fun a ha => byteAt_of_prefix (sp := .out) hprefix ha⟩

/-- Settles O44: where `SEQ` is kept no page was emitted, and a packet stored lies behind what was there. -/
theorem commandsStoreOnlyAtTheEnd : Obligations.CommandsStoreOnlyAtTheEnd := by
  intro i s t hexec hrst hopen hphase hseq
  cases (effect_of_exec hexec).stores hrst hopen hphase with
  | nothing hop hspaces =>
    have hbyte : ∀ sp a, byteAt t sp a = byteAt s sp a := fun sp a => by rw [byteAt, byteAt, hspaces]
    exact ⟨fun sp a _ => hbyte sp a, hbyte .out, fun _ _ => hbyte, fun h => absurd h (by tauto)⟩
  | packet hop hsegtab hpayload hout =>
    have hprefix : ∀ sp, spaceBytes s sp <+: spaceBytes t sp := by
      rintro (_ | _ | _) <;> simp [spaceBytes, hsegtab, hpayload, hout]
    refine ⟨fun sp a => byteAt_of_prefix (hprefix sp), fun a => by simp [byteAt, spaceBytes, hout], fun htags haud => ?_,
      fun _ => ?_⟩
    · exact absurd hop (by tauto)
    · simp [memRead, State.segcnt, State.paylen, hsegtab, hpayload, ← length_lace]
  | page hemitted =>
    rw [hseq] at hemitted
    exact absurd hemitted (by simp)

/-! ### The sizes of the spaces (R22, R23, R40) -/

/-- A segment table of at most 255 values sums to 65024 at most where its last value is below 255. -/
theorem tableSum_le {table : List Byte} (hlen : table.length ≤ 255) (hclosed : ∀ v, table.getLast? = some v → v.toNat < 255) :
    tableSum table ≤ 65024 := by
  obtain rfl | ⟨init, v, rfl⟩ := List.eq_nil_or_concat' table
  · exact Nat.zero_le _
  · have hv : v.toNat < 255 := hclosed v (by simp)
    have hbyte : ∀ n ∈ init.map BitVec.toNat, n ≤ 255 :=
      List.forall_mem_map.2 fun w _ => Nat.le_of_lt_succ w.isLt
    have hinit : tableSum init ≤ (init.map BitVec.toNat).length * 255 := List.sum_le_card_nsmul _ 255 hbyte
    have hsum : tableSum (init ++ [v]) = tableSum init + v.toNat := by simp [tableSum]
    rw [List.length_map] at hinit
    rw [List.length_append, List.length_singleton] at hlen
    omega

theorem BlockInv.paylen_le {s : State} (h : BlockInv s) : s.paylen ≤ 65024 :=
  h.paylen_eq ▸ tableSum_le h.segcnt_le h.closed

/-- Settles O48: `SEGTAB` and `OUT` by the invariant's own bounds, `PAYLOAD` by `BlockInv.paylen_le`. -/
theorem spacesStayWithinTheirSizes : Obligations.SpacesStayWithinTheirSizes := by
  intro s h
  have hsegcnt : s.segcnt ≤ 255 := h.segcnt_le
  have hpaylen := h.paylen_le
  refine ⟨(Memory.wf_iff s).2 ⟨hsegcnt, hpaylen, h.out_fits⟩, ?_⟩
  simp only [Config.hdrLen, Config.pageMax]
  omega

/-! ### The host's read of `OUT` (R43, R188) -/

theorem readOut_of_ne_done {s : State} (h : s.phase ≠ .done) : s.readOut = none := if_neg h

/-- In `IDLE` and `DONE` `STR.OPEN` opens a stream (R117). -/
theorem exec_strOpen_of_ready {s : State} (h : s.phase = .idle ∨ s.phase = .done) (serial : BitVec 32) (preskip : BitVec 16)
    (nsamp : BitVec 32) : exec (.strOpen serial preskip nsamp) s = .next (openStream serial preskip nsamp s) := by
  obtain hp | hp := h <;> simp [exec, execStrOpen, unlessFault, hp]

/-- Settles O45: `RST` and `STR.OPEN` empty `OUT` and lead to `IDLE` and `HEAD`, where the host reads nothing. -/
theorem hostReadsOutputOnlyWhenDone : Obligations.HostReadsOutputOnlyWhenDone := by
  refine fun s => ⟨fun h => if_pos h, readOut_of_ne_done, rfl, ?_⟩
  rintro i t (rfl | ⟨hop, hdone⟩) hexec
  · cases hexec
    exact ⟨rfl, readOut_of_ne_done nofun⟩
  · cases i with
    | strOpen serial preskip nsamp =>
      cases (exec_strOpen_of_ready (.inr hdone) serial preskip nsamp).symm.trans hexec
      exact ⟨rfl, readOut_of_ne_done nofun⟩
    | _ => cases hop

end Sys2Proof.Machine

namespace Sys2Proof.Machine

/-! ### The bytes that decode to a command (R61, R63 to R70) -/

theorem length_memRead {m : List Byte} {addr n : Nat} (h : addr + n ≤ m.length) : (memRead m addr n).length = n := by
  rw [memRead, List.length_take, List.length_drop]
  omega

/-- A read and what lies behind it make what lies at its address. -/
theorem memRead_append_drop (m : List Byte) (addr n : Nat) : memRead m addr n ++ m.drop (addr + n) = m.drop addr := by
  rw [memRead, ← List.drop_drop, List.take_append_drop]

/-- A field inside the bytes reads as a number of its width, whose little-endian bytes are the field (R69). -/
theorem leBytes_leValue_memRead {m : List Byte} {addr n : Nat} (h : addr + n ≤ m.length) :
    leValue (memRead m addr n) < 256 ^ n ∧ leBytes n (leValue (memRead m addr n)) = memRead m addr n := by
  have hlt := leValue_lt (memRead m addr n)
  have hbytes := leBytes_leValue (memRead m addr n)
  rw [length_memRead h] at hlt hbytes
  exact ⟨hlt, hbytes⟩

/-- The same through a register of the field's width. -/
theorem leBytes_ofNat_memRead {m : List Byte} {addr n w : Nat} (hw : 256 ^ n = 2 ^ w) (h : addr + n ≤ m.length) :
    leBytes n (BitVec.ofNat w (leValue (memRead m addr n))).toNat = memRead m addr n := by
  obtain ⟨hlt, hbytes⟩ := leBytes_leValue_memRead h
  rw [BitVec.toNat_ofNat, Nat.mod_eq_of_lt (hw ▸ hlt), hbytes]

theorem opcodeByte_of_opcodeOf {b : Byte} {o : Opcode} (h : opcodeOf b = some o) : opcodeByte o = b :=
  beq_iff_eq.1 (List.find?_some (p := fun o => opcodeByte o == b) h)

section
variable {bytes rest : List Byte} {i : Instr}

theorem decodeI_eq_command {mk : Byte → Instr} (h : decodeI mk bytes = .command i rest) :
    ∃ imm, i = mk imm ∧ bytes = imm :: rest := by
  cases bytes with
  | nil => cases h
  | cons imm bytes => cases h; exact ⟨imm, rfl, rfl⟩

/-- Format B (R65): what was read as the payload has the length that the `len` field holds. -/
theorem decodeB_eq_command {mk : List Byte → Instr} (h : decodeB mk bytes = .command i rest) :
    ∃ data, i = mk data ∧ data.length < 2 ^ Config.lenWidth ∧ bytes = encodePayload data ++ rest := by
  unfold decodeB at h
  dsimp only at h
  split at h
  case isTrue => cases h
  case isFalse hwhole =>
    cases h
    obtain ⟨hlt, hbytes⟩ := leBytes_leValue_memRead (m := bytes) (addr := 0) (n := 4) (by omega)
    have hdata := length_memRead (m := bytes) (not_lt.1 hwhole)
    refine ⟨_, rfl, hdata.trans_lt hlt, ?_⟩
    rw [encodePayload, hdata, hbytes, List.append_assoc, memRead_append_drop]
    exact (memRead_append_drop bytes 0 4).symm

/-- Format O (R66): the three fields lie one behind the other. -/
theorem decodeO_eq_command (h : decodeO bytes = .command i rest) :
    ∃ serial preskip nsamp, i = .strOpen serial preskip nsamp ∧ bytes = encodeOperands i ++ rest := by
  unfold decodeO at h
  split at h
  case isTrue => cases h
  case isFalse hwhole =>
    cases h
    have hlen : 10 ≤ bytes.length := not_lt.1 hwhole
    refine ⟨_, _, _, rfl, ?_⟩
    rw [encodeOperands, leBytes_ofNat_memRead rfl (by omega), leBytes_ofNat_memRead rfl (by omega),
      leBytes_ofNat_memRead rfl (by omega), List.append_assoc, List.append_assoc, memRead_append_drop, memRead_append_drop]
    exact (memRead_append_drop bytes 0 4).symm

/-- The decoder reads after an opcode byte only what the encoder writes there. -/
theorem decodeOperands_eq_command {o : Opcode} (h : decodeOperands o bytes = .command i rest) :
    i.opcode = o ∧ i.wellFormed = true ∧ bytes = encodeOperands i ++ rest := by
  cases o with
  | nop | rst | crcClr | strFin => cases h; exact ⟨rfl, rfl, rfl⟩
  | rd | crcUpd8 =>
    obtain ⟨imm, rfl, rfl⟩ := decodeI_eq_command h
    exact ⟨rfl, rfl, rfl⟩
  | crcUpd | durCalc | pktHead | pktTags | pktAud =>
    obtain ⟨data, rfl, hlen, rfl⟩ := decodeB_eq_command h
    exact ⟨rfl, decide_eq_true hlen, rfl⟩
  | strOpen =>
    obtain ⟨serial, preskip, nsamp, rfl, hbytes⟩ := decodeO_eq_command h
    exact ⟨rfl, rfl, hbytes⟩

/-- Whatever follows an opcode byte of R67, it is not illegal. -/
theorem decodeOperands_ne_illegal (o : Opcode) (bytes : List Byte) (op : Byte) : decodeOperands o bytes ≠ .illegal op := by
  cases o with
  | nop | rst | crcClr | strFin => nofun
  | rd | crcUpd8 => cases bytes <;> nofun
  | crcUpd | durCalc | pktHead | pktTags | pktAud =>
    simp only [decodeOperands, decodeB]
    split <;> nofun
  | strOpen =>
    simp only [decodeOperands, decodeO]
    split <;> nofun

/-- The decoder reads as a command the encoding of a well-formed command, and nothing else. -/
theorem decode_eq_command_iff : decode bytes = .command i rest ↔ i.wellFormed = true ∧ bytes = encode i ++ rest := by
  refine ⟨fun h => ?_, fun ⟨hwf, hbytes⟩ => hbytes ▸ decode_encode_append hwf rest⟩
  cases bytes with
  | nil => cases h
  | cons op bytes =>
    rw [decode] at h
    split at h
    case h_1 => cases h
    case h_2 o ho =>
      obtain ⟨hopcode, hwf, hbytes⟩ := decodeOperands_eq_command h
      refine ⟨hwf, ?_⟩
      rw [encode, hopcode, opcodeByte_of_opcodeOf ho, hbytes, List.cons_append]

/-- The decoder's verdict is illegal exactly at an opcode byte that R67 does not list, and names it (R68). -/
theorem decode_cons_eq_illegal_iff {op other : Byte} :
    decode (op :: bytes) = .illegal other ↔ opcodeOf op = none ∧ other = op := by
  rw [decode]
  cases opcodeOf op with
  | none => simp [eq_comm]
  | some o => simp [decodeOperands_ne_illegal]

end

/-- Settles O1: the decoder reads back each field that the encoder writes (`decode_encode_append`). -/
theorem decodeOfEncode : Obligations.DecodeOfEncode :=
  fun _ rest hwf => decode_encode_append hwf rest

/-- Settles O2: each format's fields are read from where the encoder writes them (`decode_eq_command_iff`). -/
theorem decodedCommandIsItsEncoding : Obligations.DecodedCommandIsItsEncoding :=
  fun _ _ _ h => decode_eq_command_iff.1 h

/-- The reserved bytes of R68 are those that R67's table leaves out. -/
theorem opcodeOf_eq_none_iff (op : Byte) :
    opcodeOf op = none ↔
      (0x03 ≤ op.toNat ∧ op.toNat ≤ 0x0F) ∨ (0x13 ≤ op.toNat ∧ op.toNat ≤ 0x17) ∨
        (0x19 ≤ op.toNat ∧ op.toNat ≤ 0x1F) ∨ 0x25 ≤ op.toNat := by
  have hlt := op.isLt
  have htable : opcodeOf op = none ↔ ∀ o ∈ opcodeTable, opcodeByte o ≠ op := by simp [opcodeOf]
  simp only [htable, opcodeTable, List.forall_mem_cons, List.not_mem_nil, IsEmpty.forall_iff, implies_true, and_true,
    opcodeByte, ne_eq, BitVec.toNat_eq, BitVec.ofNat_eq_ofNat, BitVec.toNat_ofNat]
  omega

/-- Settles O3: the decoder refuses by the opcode byte alone (`decode_cons_eq_illegal_iff`), and R67's table leaves out
exactly R68's bytes (`opcodeOf_eq_none_iff`). -/
theorem reservedOpcodesAreIllegal : Obligations.ReservedOpcodesAreIllegal := by
  refine fun op rest => ⟨?_, fun other h => (decode_cons_eq_illegal_iff.1 h).2, fun reg => rfl⟩
  rw [decode_cons_eq_illegal_iff, opcodeOf_eq_none_iff, and_iff_left rfl]

/-- A proper beginning of an encoding is no command, since its own encoding would then be followed by more of the same
encoding, and not illegal, since its opcode byte is the command's (R61). -/
theorem decode_of_encode_eq_append {i : Instr} {sent missing : List Byte} (hwf : i.wellFormed = true)
    (henc : encode i = sent ++ missing) (hmissing : missing ≠ []) : decode sent = .incomplete := by
  cases hverdict : decode sent with
  | incomplete => rfl
  | command j rest =>
    obtain ⟨hj, rfl⟩ := decode_eq_command_iff.1 hverdict
    have hi : decode (encode i) = .command i [] := by simpa using decode_encode_append hwf []
    rw [henc, List.append_assoc, decode_encode_append hj] at hi
    injection hi with _ hrest
    exact absurd (List.append_eq_nil_iff.1 hrest).2 hmissing
  | illegal op =>
    cases sent with
    | nil => cases hverdict
    | cons b sent =>
      obtain ⟨hb, _⟩ := decode_cons_eq_illegal_iff.1 hverdict
      rw [encode, List.cons_append] at henc
      injection henc with hop _
      rw [← hop, opcodeOf_opcodeByte] at hb
      cases hb

/-- Settles O4: the verdict is incomplete (`decode_of_encode_eq_append`), and the step waits. -/
theorem incompleteCommandHasNoEffect : Obligations.IncompleteCommandHasNoEffect := by
  intro i sent missing hwf henc hmissing
  have hverdict : decode sent = .incomplete := decode_of_encode_eq_append hwf henc hmissing
  refine ⟨hverdict, fun s hcmd => ?_⟩
  have hfetch : fetchCommand s = .incomplete := by rw [fetchCommand, hcmd, hverdict, ite_self]
  rw [step, hfetch, waitForCommand]

/-- While `DESYNC` is 0 the verdict depends on the bytes of `CMD` alone (R28, R70). -/
theorem fetchCommand_of_sync {s : State} (h : s.desync = false) : fetchCommand s = decode s.cmd := by
  rw [fetchCommand, h]
  rfl

/-- Format B: the encoding is the opcode byte, `len` and the payload (R65). -/
theorem encode_of_formatB {i : Instr} (h : i.opcode ∈ [.crcUpd, .durCalc, .pktHead, .pktTags, .pktAud]) :
    encode i = opcodeByte i.opcode :: encodePayload i.payload := by
  cases i with
  | crcUpd | durCalc | pktHead | pktTags | pktAud => rfl
  | _ => simp [Instr.opcode] at h

/-- Format B: bytes 1 to 4 hold the payload's length, and the payload lies behind them (R65). -/
theorem memRead_encode_of_formatB {i : Instr} (h : i.opcode ∈ [.crcUpd, .durCalc, .pktHead, .pktTags, .pktAud])
    (hwf : i.wellFormed = true) (rest : List Byte) :
    leValue (memRead (encode i ++ rest) 1 4) = i.payload.length ∧
      memRead (encode i ++ rest) 5 i.payload.length = i.payload := by
  rw [encode_of_formatB h]
  exact ⟨leValue_leBytes 4 _ (of_decide_eq_true hwf), List.take_left⟩

theorem length_encode (i : Instr) : (encode i).length = commandLength i := by
  cases i with
  | nop | rst | rd | crcClr | crcUpd8 | strFin => rfl
  | crcUpd data => exact (Laws.EncodedLength.crcUpd data).2
  | durCalc data => exact (Laws.EncodedLength.durCalc data).2
  | strOpen serial preskip nsamp => exact (Laws.EncodedLength.strOpen serial preskip nsamp).2
  | pktHead data => exact (Laws.EncodedLength.pktHead data).2
  | pktTags data => exact (Laws.EncodedLength.pktTags data).2
  | pktAud data => exact (Laws.EncodedLength.pktAud data).2

/-- Settles O5: the bytes are the command's encoding (`decode_eq_command_iff`), whose length is R67's (`length_encode`) and
whose `len` field is the payload's length (`memRead_encode_of_formatB`). -/
theorem commandLengthsAreFixed : Obligations.CommandLengthsAreFixed := by
  refine ⟨fun bytes i rest h => ?_, fun s => fetchCommand_of_sync⟩
  obtain ⟨hwf, rfl⟩ := decode_eq_command_iff.1 h
  refine ⟨rfl, ?_, fun hB => ?_⟩
  · rw [List.length_append, length_encode, Nat.add_comm]
    cases i with
    | crcUpd | durCalc | pktHead | pktTags | pktAud =>
      rw [(memRead_encode_of_formatB (by simp [Instr.opcode]) hwf rest).1]
      rfl
    | _ => rfl
  · obtain ⟨hlen, hpayload⟩ := memRead_encode_of_formatB hB hwf rest
    rw [hlen]
    exact ⟨hpayload.symm, rfl⟩

/-- Settles O6: the decoder computes on each word. -/
theorem sampleWordsDecode : Obligations.SampleWordsDecode :=
  ⟨rfl, rfl, rfl, rfl, rfl, rfl⟩

/-- Settles O7: a synchronised decoder fetches what `decode` reads (`fetchCommand_of_sync`). -/
theorem stepRunsDecodedCommand : Obligations.StepRunsDecodedCommand :=
  fun _ _ _ hdesync h => step_of_fetchCommand ((fetchCommand_of_sync hdesync).trans h)

end Sys2Proof.Machine

namespace Sys2Proof.Machine

/-! ### Every command answers a next state (R62) -/

/-- Settles O36: `exec_effect` gives the next state, and of all effects only a response adds to `RSP`. -/
theorem everyCommandAnswersNext : Obligations.EveryCommandAnswersNext := by
  intro i s
  obtain ⟨t, hexec, heffect⟩ := exec_effect i s
  refine ⟨t, hexec, heffect.cmd_eq, ?_, ?_⟩
  · cases heffect <;> rfl
  · cases heffect with
    | responded reg v => exact .inr ⟨reg, v, rfl, rfl⟩
    | _ => exact .inl rfl

/-! ### `CRC.OF` (R78, R91) -/

theorem exec_crcClr_of_ne_fault {s : State} (h : s.phase ≠ .fault) : exec .crcClr s = .next (setCrc Config.crcInit s) :=
  congrArg Host.Outcome.next (unlessFault_of_ne s _ h)

theorem exec_crcUpd_of_ne_fault {s : State} (h : s.phase ≠ .fault) (data : List Byte) :
    exec (.crcUpd data) s = .next (setCrc (crcFold s.crc data) s) :=
  congrArg Host.Outcome.next (unlessFault_of_ne s _ h)

/-- Settles O17: `CRC` is cleared, folded over the data and read. -/
theorem crcOfRespondsWithChecksum : Obligations.CrcOfRespondsWithChecksum := by
  intro s data h
  rw [expandPseudo, execAll_cons_of_exec (exec_crcClr_of_ne_fault h),
    execAll_cons_of_exec (exec_crcUpd_of_ne_fault (s := setCrc Config.crcInit s) h data),
    execAll_cons_of_exec (exec_rd_of_readReg (reg := 0x04) rfl), BitVec.ofNat_toNat]
  rfl

end Sys2Proof.Machine

namespace Sys2Proof.Machine

/-! ### Lacing and the page layout (R71, R74, R75) -/

theorem getElem?_lace_of_lt {len k : Nat} (h : k < len / 255) : (lace len)[k]? = some 0xFF := by
  simp [lace, Config.segMax, List.getElem?_append, h]

theorem getElem?_lace_last (len : Nat) : (lace len)[len / 255]? = some (BitVec.ofNat 8 (len % 255)) := by
  simp [lace, Config.segMax]

/-- Settles O27: the lacing's length, sum and values by their lemmas; the two counts are arithmetic of `len / 255`. -/
theorem lacingOfALength : Obligations.LacingOfALength := by
  intro len
  refine ⟨length_lace len, tableSum_lace len, ?_, fun k => getElem?_lace_of_lt, ⟨_, getElem?_lace_last len, ?_⟩, ?_⟩
  · simp only [segs, Config.segMax]
    split <;> omega
  · rw [BitVec.toNat_ofNat]
    omega
  · simp only [segs, Config.segMax]
    omega

/-- Settles O28: `unlace_tableOf`, by induction on the packets. -/
theorem unlaceInvertsLacing : Obligations.UnlaceInvertsLacing := unlace_tableOf

/-- Settles O29: the fields one by one, each by its own lemma. -/
theorem pageLayoutByOffset : Obligations.PageLayoutByOffset :=
  fun _ _ _ _ _ _ _ h =>
    ⟨length_pageImage .., rfl, rfl, rfl, pageFlags_pageImage .., pageGranule_pageImage .., pageSerial_pageImage ..,
      pageSeq_pageImage .., pageCrc_pageImage .., pageSegCount_pageImage (h := h) .., pageTable_pageImage (h := h) ..,
      pagePayload_pageImage (h := h) ..⟩

end Sys2Proof.Machine

namespace Sys2Proof.Machine

/-! ### The checksum is linear (R92 (e)) -/

theorem xor_xor_xor_comm {w : Nat} (a b c d : BitVec w) : (a ^^^ b) ^^^ (c ^^^ d) = (a ^^^ c) ^^^ (b ^^^ d) := by ac_rfl

/-- One round: a set top bit adds the polynomial once, and added for both operands it cancels. -/
theorem crcRound_xor_distrib (c d : BitVec 32) : crcRound (c ^^^ d) = crcRound c ^^^ crcRound d := by
  rw [crcRound_xor, crcRound, crcRound]
  cases c.msb with
  | false => cases d.msb <;> simp [BitVec.xor_assoc, BitVec.xor_comm Config.poly]
  | true =>
    cases d.msb with
    | false => rfl
    | true =>
      calc (c <<< 1) ^^^ (d <<< 1)
        _ = ((c <<< 1) ^^^ (d <<< 1)) ^^^ (Config.poly ^^^ Config.poly) := by rw [BitVec.xor_self, BitVec.xor_zero]
        _ = ((c <<< 1) ^^^ Config.poly) ^^^ ((d <<< 1) ^^^ Config.poly) := xor_xor_xor_comm ..

theorem crcRounds_xor_distrib (n : Nat) (c d : BitVec 32) : crcRounds n (c ^^^ d) = crcRounds n c ^^^ crcRounds n d := by
  induction n generalizing c d with
  | zero => rfl
  | succ n ih => rw [crcRounds, crcRounds, crcRounds, crcRound_xor_distrib, ih]

theorem crcStep_xor (c₁ c₂ : BitVec 32) (b₁ b₂ : Byte) :
    crcStep (c₁ ^^^ c₂) (b₁ ^^^ b₂) = crcStep c₁ b₁ ^^^ crcStep c₂ b₂ := by
  have hinput : (c₁ ^^^ c₂) ^^^ ((b₁ ^^^ b₂).setWidth 32 <<< 24) =
      (c₁ ^^^ (b₁.setWidth 32 <<< 24)) ^^^ (c₂ ^^^ (b₂.setWidth 32 <<< 24)) := by
    rw [BitVec.setWidth_xor, BitVec.shiftLeft_xor_distrib, xor_xor_xor_comm]
  rw [crcStep, hinput, crcRounds_xor_distrib, crcStep, crcStep]

/-- For two buffers of one length, from any two accumulators. -/
theorem crcFold_zipWith_xor {s t : List Byte} (h : s.length = t.length) (c d : BitVec 32) :
    crcFold (c ^^^ d) (List.zipWith (· ^^^ ·) s t) = crcFold c s ^^^ crcFold d t := by
  induction s generalizing t c d with
  | nil =>
    obtain rfl := List.length_eq_zero_iff.1 h.symm
    rfl
  | cons b s ih =>
    cases t with
    | nil => cases h
    | cons b' t =>
      rw [List.zipWith_cons_cons, crcFold_cons, crcFold_cons, crcFold_cons, crcStep_xor, ih (Nat.succ.inj h)]

/-- Settles O13: `crcStep_xor`, and `crcFold_zipWith_xor` from two accumulators of zero. -/
theorem crcIsLinear : Obligations.CrcIsLinear :=
  ⟨crcStep_xor, fun _ _ h => crcFold_zipWith_xor h 0 0⟩

/-! ### Leading zeros and chaining (R92 (b), (d)) -/

theorem crcStep_zero_zero : crcStep 0 0 = 0 := by decide

theorem crcFold_zero_replicate (n : Nat) : crcFold 0 (List.replicate n 0) = 0 := by
  induction n with
  | zero => rfl
  | succ n ih => rw [List.replicate_succ, crcFold_cons, crcStep_zero_zero, ih]

theorem crcFold_append (c : BitVec 32) (s t : List Byte) : crcFold c (s ++ t) = crcFold (crcFold c s) t := by
  induction s generalizing c with
  | nil => rfl
  | cons b s ih => rw [List.cons_append, crcFold_cons, crcFold_cons, ih]

/-- Settles O12: chaining (`crcFold_append`) reduces leading zeros to `crcFold_zero_replicate`. -/
theorem crcBufferLaws : Obligations.CrcBufferLaws := by
  refine ⟨rfl, by decide, fun n s => ?_, crcFold_append⟩
  rw [crcOgg, crcFold_append, Config.crcInit, crcFold_zero_replicate, crcOgg, Config.crcInit]

/-! ### The table form (R92 (f)) -/

/-- `n` rounds on a word whose top `n` bits are zero only shift it: no round meets a set top bit. -/
theorem crcRounds_of_lt {n : Nat} {c : BitVec 32} (h : c.toNat * 2 ^ n < 2 ^ 32) : crcRounds n c = c <<< n := by
  induction n generalizing c with
  | zero => exact (BitVec.shiftLeft_zero c).symm
  | succ n ih =>
    rw [Nat.pow_succ', ← Nat.mul_assoc] at h
    have htop : c.toNat * 2 < 2 ^ 32 := (Nat.le_mul_of_pos_right _ n.two_pow_pos).trans_lt h
    have hmsb : c.msb = false := BitVec.msb_eq_false_iff_two_mul_lt.2 (by omega)
    have hround : crcRound c = c <<< 1 := by simp [crcRound, hmsb]
    have hshift : (c <<< 1).toNat = c.toNat * 2 := by
      rw [BitVec.toNat_shiftLeft, Nat.shiftLeft_eq, Nat.pow_one, Nat.mod_eq_of_lt htop]
    rw [crcRounds, hround, ih (hshift ▸ h), ← BitVec.shiftLeft_add, Nat.add_comm]

/-- The three lower bytes of a word, with the top byte cleared. -/
def lowBytes (c : BitVec 32) : BitVec 32 := (c.setWidth 24).setWidth 32

theorem toNat_lowBytes (c : BitVec 32) : (lowBytes c).toNat = c.toNat % 2 ^ 24 := by
  rw [lowBytes, BitVec.toNat_setWidth, BitVec.toNat_setWidth]
  omega

theorem lowBytes_shiftLeft (c : BitVec 32) : lowBytes c <<< 8 = c <<< 8 := by
  apply BitVec.eq_of_toNat_eq
  rw [BitVec.toNat_shiftLeft, BitVec.toNat_shiftLeft, toNat_lowBytes, Nat.shiftLeft_eq, Nat.shiftLeft_eq]
  omega

theorem lowBytes_xor_topByte (c : BitVec 32) : lowBytes c ^^^ ((c.extractLsb' 24 8).setWidth 32 <<< 24) = c := by
  ext i hi
  by_cases h : i < 24
  · simp [lowBytes, h, BitVec.getLsbD_eq_getElem hi]
  · have hbit : 24 + (i - 24) = i := by omega
    have hbyte : i - 24 < 8 := by omega
    simp [lowBytes, h, hbit, hbyte, BitVec.getLsbD_eq_getElem hi]

theorem crcStep_lowBytes_zero (c : BitVec 32) : crcStep (lowBytes c) 0 = c <<< 8 := by
  have hlt : (lowBytes c).toNat * 2 ^ 8 < 2 ^ 32 := by
    rw [toNat_lowBytes]
    omega
  have hzero : lowBytes c ^^^ ((0 : Byte).setWidth 32 <<< 24) = lowBytes c := BitVec.xor_zero
  rw [crcStep, hzero, crcRounds_of_lt hlt, lowBytes_shiftLeft]

/-- A byte that stands at the accumulator's top counts as one that is consumed. -/
theorem crcStep_xor_topByte (c : BitVec 32) (a b : Byte) :
    crcStep (c ^^^ (a.setWidth 32 <<< 24)) b = crcStep c (a ^^^ b) := by
  rw [crcStep, crcStep, BitVec.setWidth_xor, BitVec.shiftLeft_xor_distrib, BitVec.xor_assoc]

/-- Settles O14: the top byte joins the byte consumed (`crcStep_xor_topByte`), the lower three are only shifted
(`crcStep_lowBytes_zero`), and the step is linear. -/
theorem crcTableForm : Obligations.CrcTableForm := fun c b =>
  calc crcStep c b
    _ = crcStep (lowBytes c ^^^ ((c.extractLsb' 24 8).setWidth 32 <<< 24)) b := by rw [lowBytes_xor_topByte]
    _ = crcStep (lowBytes c) (c.extractLsb' 24 8 ^^^ b) := crcStep_xor_topByte ..
    _ = crcStep (lowBytes c ^^^ 0) (0 ^^^ (c.extractLsb' 24 8 ^^^ b)) :=
      congrArg₂ crcStep BitVec.xor_zero.symm BitVec.zero_xor.symm
    _ = crcStep (lowBytes c) 0 ^^^ crcStep 0 (c.extractLsb' 24 8 ^^^ b) := crcStep_xor ..
    _ = (c <<< 8) ^^^ crcStep 0 (c.extractLsb' 24 8 ^^^ b) := by rw [crcStep_lowBytes_zero]

/-! ### The commands of the checksum unit (R93 to R95) -/

/-- R162: in phase `FAULT` every command but `RST` and `RD` changes nothing. -/
theorem exec_of_fault {i : Instr} {s : State} (h : s.phase = .fault) (hrst : i.opcode ≠ .rst) (hrd : i.opcode ≠ .rd) :
    exec i s = .next s := by
  obtain ⟨t, hexec, heffect⟩ := exec_effect i s
  cases heffect with
  | nop | dropped => exact hexec
  | rst => exact absurd rfl hrst
  | responded => exact absurd rfl hrd
  | faulted _ _ hphase | crcCleared hphase | crcStepped _ hphase | crcFolded _ hphase | measured _ _ hphase =>
    exact absurd h hphase
  | opened _ _ _ hphase | headEmitted _ hphase | tagsHeld _ hphase | audioJoined _ _ hphase | audioFlushed _ _ hphase
  | finished hphase => simp [h] at hphase

theorem exec_crcUpd8 (imm8 : Byte) (s : State) :
    exec (.crcUpd8 imm8) s = .next (unlessFault (setCrc (crcStep s.crc imm8)) s) := rfl

theorem exec_crcUpd8_of_ne_fault {s : State} (h : s.phase ≠ .fault) (imm8 : Byte) :
    exec (.crcUpd8 imm8) s = .next (setCrc (crcStep s.crc imm8) s) :=
  congrArg Host.Outcome.next (unlessFault_of_ne s _ h)

/-- Settles O15: `exec_crcClr_of_ne_fault`, `exec_crcUpd8_of_ne_fault` and `exec_of_fault`. -/
theorem crcClrAndUpd8WriteCrcOnly : Obligations.CrcClrAndUpd8WriteCrcOnly :=
  ⟨rfl, fun _ => rfl, fun _ =>
    ⟨fun h => ⟨exec_crcClr_of_ne_fault h, exec_crcUpd8_of_ne_fault h⟩,
      fun h => ⟨exec_of_fault h nofun nofun, fun _ => exec_of_fault h nofun nofun⟩⟩⟩

theorem exec_crcUpd_nil (s : State) : exec (.crcUpd []) s = .next s := by
  by_cases h : s.phase = .fault
  · exact exec_of_fault h nofun nofun
  · exact exec_crcUpd_of_ne_fault h []

theorem exec_crcUpd_cons (b : Byte) (data : List Byte) (s : State) :
    exec (.crcUpd (b :: data)) s = exec (.crcUpd data) (unlessFault (setCrc (crcStep s.crc b)) s) := by
  by_cases h : s.phase = .fault
  · have hdropped (d : List Byte) : exec (.crcUpd d) s = .next s := exec_of_fault h nofun nofun
    rw [unlessFault_of_fault s _ h, hdropped, hdropped]
  · rw [unlessFault_of_ne s _ h, exec_crcUpd_of_ne_fault h, crcFold_cons]
    exact (exec_crcUpd_of_ne_fault (s := setCrc (crcStep s.crc b) s) h data).symm

/-- R95, by induction on the bytes: each `CRC.UPD8` takes the first one. -/
theorem exec_crcUpd_eq_execAll (data : List Byte) (s : State) :
    exec (.crcUpd data) s = execAll (data.map .crcUpd8) s := by
  induction data generalizing s with
  | nil => exact exec_crcUpd_nil s
  | cons b data ih => rw [exec_crcUpd_cons, ih, List.map_cons, execAll_cons_of_exec (exec_crcUpd8 b s)]

/-- Settles O16: `exec_crcUpd_of_ne_fault`, `exec_of_fault` and `exec_crcUpd_eq_execAll`. -/
theorem crcUpdIsSuccessiveUpd8 : Obligations.CrcUpdIsSuccessiveUpd8 := fun s data =>
  ⟨rfl, fun h => exec_crcUpd_of_ne_fault h data, fun h => exec_of_fault h nofun nofun, exec_crcUpd_eq_execAll data s,
    exec_crcUpd_nil s⟩

end Sys2Proof.Machine

namespace Sys2Proof.Machine

/-! ### The frame count and the samples per frame (R100, R101) -/

theorem tocCode_eq (b0 : Byte) : tocCode b0 = b0.toNat % 4 := by
  rw [tocCode, BitVec.extractLsb'_toNat, Nat.shiftRight_zero]

theorem nbFrames_of_code_zero {b0 : Byte} (h : b0.toNat % 4 = 0) (rest : List Byte) : nbFrames (b0 :: rest) = some 1 := by
  simp [nbFrames, tocCode_eq, h]

theorem nbFrames_of_code_one_or_two {b0 : Byte} (h : b0.toNat % 4 = 1 ∨ b0.toNat % 4 = 2) (rest : List Byte) :
    nbFrames (b0 :: rest) = some 2 := by
  obtain h | h := h <;> simp [nbFrames, tocCode_eq, h]

/-- With code 3 the low 6 bits of a second byte are the count (R100). -/
theorem nbFrames_of_code_three {b0 : Byte} (h : b0.toNat % 4 = 3) (rest : List Byte) :
    nbFrames (b0 :: rest) = rest.head?.map fun b1 => b1.toNat % 64 := by
  cases rest with
  | nil => simp [nbFrames, tocCode_eq, h]
  | cons b1 more => simp [nbFrames, tocCode_eq, h]

/-- Settles O18, code by code. -/
theorem frameCountByCode : Obligations.FrameCountByCode := by
  refine ⟨rfl, fun b0 rest => ⟨fun h => nbFrames_of_code_zero h rest, fun h => nbFrames_of_code_one_or_two h rest, ?_, ?_⟩⟩
  · rintro h rfl
    exact nbFrames_of_code_three h []
  · rintro h b1 more rfl
    exact nbFrames_of_code_three h (b1 :: more)

/-- The two malformed packets (R103). -/
theorem nbFrames_eq_none_iff {p : Packet} : nbFrames p = none ↔ p = [] ∨ ∃ b0, p = [b0] ∧ b0.toNat % 4 = 3 := by
  cases p with
  | nil => exact iff_of_true rfl (.inl rfl)
  | cons b0 rest =>
    have hcode : b0.toNat % 4 = 0 ∨ (b0.toNat % 4 = 1 ∨ b0.toNat % 4 = 2) ∨ b0.toNat % 4 = 3 := by omega
    obtain h | h | h := hcode
    · simp [nbFrames_of_code_zero h, h]
    · have hne : b0.toNat % 4 ≠ 3 := by omega
      simp [nbFrames_of_code_one_or_two h, hne]
    · simp [nbFrames_of_code_three h, h]

/-- Byte 0 of a packet with `code` cleared: the column `b0 & 0xF8` of R101's table. -/
def clearCode (b0 : Byte) : Byte := BitVec.ofNat 8 (8 * (b0.toNat / 8))

theorem getLsbD_clearCode (b0 : Byte) {i : Nat} (hlow : 3 ≤ i) (hhigh : i < 8) : (clearCode b0).getLsbD i = b0.getLsbD i := by
  rw [clearCode, BitVec.getLsbD_ofNat, Nat.testBit_two_pow_mul (i := 3), Nat.testBit_div_two_pow (n := 3),
    Nat.sub_add_cancel hlow]
  simp [hlow, hhigh, BitVec.getLsbD]

theorem extractLsb'_clearCode (b0 : Byte) {start : Nat} (hlow : 3 ≤ start) (hhigh : start + 2 ≤ 8) :
    (clearCode b0).extractLsb' start 2 = b0.extractLsb' start 2 := by
  refine BitVec.eq_of_getLsbD_eq fun i hi => ?_
  rw [BitVec.getLsbD_extractLsb', BitVec.getLsbD_extractLsb', getLsbD_clearCode b0 (by omega) (by omega)]

/-- The samples per frame depend on bits 7:3 of byte 0 only (R101). -/
theorem samplesPerFrame_clearCode (b0 : Byte) (fs : Nat) : samplesPerFrame (clearCode b0) fs = samplesPerFrame b0 fs := by
  have hclass : tocClass (clearCode b0) = tocClass b0 :=
    congrArg BitVec.toNat (extractLsb'_clearCode b0 (by decide) (by decide))
  rw [samplesPerFrame, samplesPerFrame, hclass, getLsbD_clearCode b0 (by decide) (by decide),
    getLsbD_clearCode b0 (by decide) (by decide), extractLsb'_clearCode b0 (by decide) (by decide)]

/-- Settles O19: by `samplesPerFrame_clearCode` only the table's 32 rows are left to compare. -/
theorem samplesPerFrameTable : Obligations.SamplesPerFrameTable := by
  intro b0
  have hrow : b0.toNat / 8 < 32 := by omega
  rw [← samplesPerFrame_clearCode, clearCode]
  generalize b0.toNat / 8 = row at hrow ⊢
  revert row
  decide

/-! ### The duration of a packet and `DUR.CALC` (R102, R103) -/

/-- R102: `MalformedOpusPacket` is tested first. -/
theorem nbSamples_of_nbFrames_none {p : Packet} (h : nbFrames p = none) : nbSamples p = .error .malformedOpusPacket := by
  rw [nbSamples, h]

theorem nbSamples_of_tooLong {p : Packet} {nf : Nat} (h : nbFrames p = some nf)
    (hlong : 5760 < nf * samplesPerFrame (p.headD 0) 48000) : nbSamples p = .error .packetTooLong := by
  rw [nbSamples, h]
  exact if_pos (by simp only [Config.fs]; omega)

theorem nbSamples_of_fits {p : Packet} {nf : Nat} (h : nbFrames p = some nf)
    (hfits : nf * samplesPerFrame (p.headD 0) 48000 ≤ 5760) :
    nbSamples p = .ok ⟨nf, samplesPerFrame (p.headD 0) 48000, nf * samplesPerFrame (p.headD 0) 48000⟩ := by
  rw [nbSamples, h]
  exact if_neg (by simp only [Config.fs]; omega)

/-- Settles O20: the three ends of `nbSamples`, and the bounds of an accepted packet's figures. -/
theorem packetDuration : Obligations.PacketDuration := by
  refine fun p => ⟨nbSamples_of_nbFrames_none, fun nf h => ⟨nbSamples_of_tooLong h, nbSamples_of_fits h⟩, fun d hd => ?_⟩
  exact ⟨nbSamples_nf_le hd, nbSamples_ok hd⟩

/-- Everything `nbSamples` can do. -/
theorem nbSamples_cases (p : Packet) :
    (nbFrames p = none ∧ nbSamples p = .error .malformedOpusPacket) ∨
      ∃ nf, nbFrames p = some nf ∧
        ((5760 < nf * samplesPerFrame (p.headD 0) 48000 ∧ nbSamples p = .error .packetTooLong) ∨
          (nf * samplesPerFrame (p.headD 0) 48000 ≤ 5760 ∧
            nbSamples p = .ok ⟨nf, samplesPerFrame (p.headD 0) 48000, nf * samplesPerFrame (p.headD 0) 48000⟩)) := by
  cases h : nbFrames p with
  | none => exact .inl ⟨rfl, nbSamples_of_nbFrames_none h⟩
  | some nf =>
    refine .inr ⟨nf, rfl, ?_⟩
    obtain hlong | hfits := Nat.lt_or_ge 5760 (nf * samplesPerFrame (p.headD 0) 48000)
    · exact .inl ⟨hlong, nbSamples_of_tooLong h hlong⟩
    · exact .inr ⟨hfits, nbSamples_of_fits h hfits⟩

theorem nbSamples_eq_malformed_iff {p : Packet} : nbSamples p = .error .malformedOpusPacket ↔ nbFrames p = none := by
  refine ⟨fun h => ?_, nbSamples_of_nbFrames_none⟩
  obtain ⟨hnone, -⟩ | ⟨nf, -, ⟨-, hlong⟩ | ⟨-, hok⟩⟩ := nbSamples_cases p
  · exact hnone
  · simp [h] at hlong
  · simp [h] at hok

theorem nbSamples_eq_packetTooLong_iff {p : Packet} :
    nbSamples p = .error .packetTooLong ↔ ∃ nf, nbFrames p = some nf ∧ 5760 < nf * samplesPerFrame (p.headD 0) 48000 := by
  refine ⟨fun h => ?_, fun ⟨_, hnf, hlong⟩ => nbSamples_of_tooLong hnf hlong⟩
  obtain ⟨-, hmal⟩ | ⟨nf, hnf, ⟨hlong, -⟩ | ⟨-, hok⟩⟩ := nbSamples_cases p
  · simp [h] at hmal
  · exact ⟨nf, hnf, hlong⟩
  · simp [h] at hok

/-- Bytes of a packet beyond the first two play no part in its duration (R103). -/
theorem nbSamples_cons_cons (b0 b1 : Byte) (more other : List Byte) :
    nbSamples (b0 :: b1 :: more) = nbSamples (b0 :: b1 :: other) := rfl

theorem exec_durCalc_of_ok {s : State} (hphase : s.phase ≠ .fault) {data : Packet} {d : Duration}
    (hd : nbSamples data = .ok d) : exec (.durCalc data) s = .next (setDuration d s) := by
  refine congrArg Host.Outcome.next ((unlessFault_of_ne s _ hphase).trans ?_)
  rw [hd]

theorem exec_durCalc_of_error {s : State} (hphase : s.phase ≠ .fault) {data : Packet} {f : FaultCode}
    (hf : nbSamples data = .error f) :
    exec (.durCalc data) s = .next (enterFault f s.pktidx (opcodeByte .durCalc) s) := by
  refine congrArg Host.Outcome.next ((unlessFault_of_ne s _ hphase).trans ?_)
  rw [hf]
  exact raise_of_ne s _ _ _ hphase

/-- `DUR.CALC` reads its payload through the measured duration only. -/
theorem exec_durCalc_congr {data data' : Packet} (h : nbSamples data = nbSamples data') (s : State) :
    exec (.durCalc data) s = exec (.durCalc data') s := by
  simp only [exec, execDurCalc, h]

/-- Settles O21: `exec_of_fault`, `exec_durCalc_of_ok`, `exec_durCalc_of_error` and the conditions of the two faults. -/
theorem durCalcMeasuresPacket : Obligations.DurCalcMeasuresPacket := by
  intro s data
  refine ⟨rfl, fun h => exec_of_fault h nofun nofun, fun h d hd => ?_,
    nbSamples_eq_malformed_iff.trans nbFrames_eq_none_iff, nbSamples_eq_packetTooLong_iff, fun _ => nbSamples_error,
    fun h _ => exec_durCalc_of_error h, ?_⟩
  · exact ⟨setDuration d s, exec_durCalc_of_ok h hd, rfl, setDuration_toNat s hd⟩
  · rintro b0 b1 more other rfl
    exact exec_durCalc_congr (nbSamples_cons_cons b0 b1 more other) s

end Sys2Proof.Machine

namespace Sys2Proof.Machine

/-! ### Every step keeps the invariants of the pages in `OUT` (R122, R124 to R126) -/

/-- Settles O50: a page is emitted with its checksum in place (`checksumInv_effect`). -/
theorem stepKeepsChecksums : Obligations.StepKeepsChecksums := by
  intro s t hb hchecksum hstep
  exact step_keeps_stream (P := ChecksumInv) (fun _ _ h => h) (fun _ _ h => h) (fun _ hout _ => checksumInv_of_out_nil hout)
    (fun _ _ _ => checksumInv_effect) hb hchecksum hstep

/-- Settles O51: a page emitted carries whole packets, at least one (`lacingInv_effect`). -/
theorem stepKeepsLacingLaw : Obligations.StepKeepsLacingLaw := by
  intro s t hb hlacing hstep
  exact step_keeps_stream (P := LacingInv) (fun _ _ h => h) (fun _ _ h => h) (fun _ hout _ => lacingInv_of_out_nil hout)
    (fun _ _ _ => lacingInv_effect) hb hlacing hstep

/-- Settles O52: by the page count, kept beside it, `SEQ` is the place of the page emitted (`sequenceInv_effect`). -/
theorem stepKeepsSequenceAndFlags : Obligations.StepKeepsSequenceAndFlags := by
  intro s t hb hpages hsequence hstep
  have hkept : PagesInv t ∧ SequenceInv t :=
    step_keeps_stream (P := fun s => PagesInv s ∧ SequenceInv s) (fun _ _ h => h) (fun _ _ h => h)
      (fun _ hout hphase => ⟨pagesInv_of_out_nil hout hphase, sequenceInv_of_out_nil hout⟩)
      (fun _ _ _ hb ⟨hp, hs⟩ he => ⟨pagesInv_effect hb hp he, sequenceInv_effect hb hp hs he⟩) hb ⟨hpages, hsequence⟩ hstep
  exact hkept.2

/-- Settles O53: by the page count, kept beside it, the page emitted is an audio page exactly from place 2 on
(`granuleInv_effect`). -/
theorem stepKeepsGranulePositions : Obligations.StepKeepsGranulePositions := by
  intro s t hb hpages hgranule hstep
  have hkept : PagesInv t ∧ GranuleInv t :=
    step_keeps_stream (P := fun s => PagesInv s ∧ GranuleInv s) (fun _ _ h => h) (fun _ _ h => h)
      (fun _ hout hphase => ⟨pagesInv_of_out_nil hout hphase, granuleInv_of_out_nil hout hphase⟩)
      (fun _ _ _ hb ⟨hp, hg⟩ he => ⟨pagesInv_effect hb hp he, granuleInv_effect hb hp hg he⟩) hb ⟨hpages, hgranule⟩ hstep
  exact hkept.2

end Sys2Proof.Machine

namespace Sys2Proof.Machine

/-! ### The patch of a page's checksum (R112, R122) -/

theorem getElem?_patchChecksum {image : List Byte} {a : Nat} (hlen : 26 ≤ image.length) (ha : a < 22 ∨ 26 ≤ a) :
    (patchChecksum image)[a]? = image[a]? :=
  getElem?_memWrite _ _ _ _ (by simpa [checksumOffset] using hlen) (by simpa [checksumOffset] using ha)

/-- Settles O30: the patched image is the finished page (`patchChecksum_pageImage`), whose fields and bytes are known. -/
theorem patchedPageVerifies : Obligations.PatchedPageVerifies := by
  intro flags granule serial seq table payload
  have hlen : 26 ≤ (pageImage flags granule serial seq 0 table payload).length := by
    rw [length_pageImage, Config.hdrLen]
    omega
  refine ⟨patchChecksum_pageImage .., ?_, ?_, fun a => getElem?_patchChecksum hlen⟩
  · rw [patchChecksum_pageImage, pageVerifies_finishedPage]
  · rw [patchChecksum_pageImage, finishedPage, pageCrc_pageImage]

/-! ### The stream commands, guard by guard (R117 to R121, R154, R158) -/

/-- A packet fits a page by itself up to 65024 bytes (R74, R114). -/
theorem segs_le_maxSegs_iff (len : Nat) : segs len ≤ Config.maxSegs ↔ len ≤ 65024 := by
  obtain ⟨-, -, -, -, -, h⟩ := lacingOfALength len
  exact h

theorem segs_le_of_length {data : Packet} (h : data.length ≤ 65024) : segs data.length ≤ Config.maxSegs :=
  (segs_le_maxSegs_iff _).2 h

theorem maxSegs_lt_segs {len : Nat} (h : 65025 ≤ len) : Config.maxSegs < segs len := by
  rw [← not_le, segs_le_maxSegs_iff]
  omega

section
variable {s : State} {data : Packet} {d : Duration}

/-- A cell of R15's table that reads `Seq` (R154). -/
theorem exec_of_sequenceCell {i : Instr} (h : phaseTable i.opcode s.phase = .sequenceError) :
    exec i s = .next (enterFault .sequenceError ((phaseCode s.phase).setWidth 32) (opcodeByte i.opcode) s) := by
  have hcell := phaseTableIsComplete i s
  rw [h] at hcell
  exact hcell

/-- The commands that place and emit packets execute in one phase each (R15). -/
theorem phaseTable_of_ne_home {o : Opcode} {home p : Phase}
    (hhome : (o, home) ∈ [(.pktHead, .head), (.pktTags, .tags), (.pktAud, .audio), (.strFin, .audio)])
    (hfault : p ≠ .fault) (hne : p ≠ home) : phaseTable o p = .sequenceError := by
  simp only [List.mem_cons, Prod.mk.injEq, List.not_mem_nil, or_false] at hhome
  obtain ⟨rfl, rfl⟩ | ⟨rfl, rfl⟩ | ⟨rfl, rfl⟩ | ⟨rfl, rfl⟩ := hhome
  all_goals cases p <;> simp_all [phaseTable]

theorem exec_of_ne_home {i : Instr} {home : Phase}
    (hhome : (i.opcode, home) ∈ [(.pktHead, .head), (.pktTags, .tags), (.pktAud, .audio), (.strFin, .audio)])
    (hfault : s.phase ≠ .fault) (hne : s.phase ≠ home) :
    exec i s = .next (enterFault .sequenceError ((phaseCode s.phase).setWidth 32) (opcodeByte i.opcode) s) :=
  exec_of_sequenceCell (phaseTable_of_ne_home hhome hfault hne)

/-! `PKT.HEAD` in `HEAD`. -/

theorem exec_pktHead_of_tooManySegments (hphase : s.phase = .head) (hsegs : Config.maxSegs < segs data.length) :
    exec (.pktHead data) s = .next (enterFault .tooManySegments s.pktidx 0x21 s) := by
  simp [exec, execPktHead, unlessFault, raise, opcodeByte, hphase, hsegs]

theorem exec_pktHead_of_overflow (hphase : s.phase = .head) (hsegs : segs data.length ≤ Config.maxSegs)
    (hfits : outFits (Config.hdrLen + segs data.length + data.length) s = false) :
    exec (.pktHead data) s = .next (enterFault .outputOverflow s.seq 0x21 s) := by
  simp [exec, execPktHead, unlessFault, raise, opcodeByte, hphase, hsegs.not_gt, hfits]

theorem exec_pktHead_of_fits (hphase : s.phase = .head) (hsegs : segs data.length ≤ Config.maxSegs)
    (hfits : outFits (Config.hdrLen + segs data.length + data.length) s = true) :
    exec (.pktHead data) s = .next (setPhase .tags (emitPage pageFlagsBos 0 (appendPacket data s))) := by
  simp [exec, execPktHead, unlessFault, hphase, hsegs.not_gt, hfits]

/-! `PKT.TAGS` in `TAGS`. -/

theorem exec_pktTags_of_tooManySegments (hphase : s.phase = .tags) (hsegs : Config.maxSegs < segs data.length) :
    exec (.pktTags data) s = .next (enterFault .tooManySegments s.pktidx 0x22 s) := by
  simp [exec, execPktTags, unlessFault, raise, opcodeByte, hphase, hsegs]

theorem exec_pktTags_of_tags (hphase : s.phase = .tags) (hsegs : segs data.length ≤ Config.maxSegs) :
    exec (.pktTags data) s = .next (setPhase .audio (holdTagsPage (appendPacket data s))) := by
  simp [exec, execPktTags, unlessFault, hphase, hsegs.not_gt]

/-! `PKT.AUD` in `AUDIO`. -/

theorem exec_pktAud_of_tooManySegments (hphase : s.phase = .audio) (hsegs : Config.maxSegs < segs data.length) :
    exec (.pktAud data) s = .next (enterFault .tooManySegments s.pktidx 0x23 s) := by
  simp [exec, execPktAud, unlessFault, raise, opcodeByte, hphase, hsegs]

theorem exec_pktAud_of_error {f : FaultCode} (hphase : s.phase = .audio) (hsegs : segs data.length ≤ Config.maxSegs)
    (hf : nbSamples data = .error f) : exec (.pktAud data) s = .next (enterFault f s.pktidx 0x23 s) := by
  simp [exec, execPktAud, unlessFault, raise, opcodeByte, hphase, hsegs.not_gt, hf]

theorem exec_pktAud_of_overflow (hphase : s.phase = .audio) (hsegs : segs data.length ≤ Config.maxSegs)
    (hd : nbSamples data = .ok d) (hflush : mustFlush data s = true) (hfits : pageFits s = false) :
    exec (.pktAud data) s = .next (enterFault .outputOverflow s.seq 0x23 s) := by
  simp [exec, execPktAud, unlessFault, raise, opcodeByte, hphase, hsegs.not_gt, hd, hflush, hfits]

/-- R114: the packet joins the pending page. -/
theorem exec_pktAud_of_join (hphase : s.phase = .audio) (hsegs : segs data.length ≤ Config.maxSegs)
    (hd : nbSamples data = .ok d) (hflush : mustFlush data s = false) :
    exec (.pktAud data) s = .next (countPacket d.n (appendPacket data (setDuration d s))) := by
  simp [exec, execPktAud, unlessFault, placeAudio, hphase, hsegs.not_gt, hd, hflush]

/-- R114: the pending page is emitted first. -/
theorem exec_pktAud_of_flush (hphase : s.phase = .audio) (hsegs : segs data.length ≤ Config.maxSegs)
    (hd : nbSamples data = .ok d) (hflush : mustFlush data s = true) (hfits : pageFits s = true) :
    exec (.pktAud data) s =
      .next (countPacket d.n (appendPacket data (emitPending pageFlagsNone s.gran (setDuration d s)))) := by
  simp [exec, execPktAud, unlessFault, placeAudio, hphase, hsegs.not_gt, hd, hflush, hfits]

/-! `STR.FIN` in `AUDIO`. -/

theorem exec_strFin_of_overflow (hphase : s.phase = .audio) (hfits : pageFits s = false) :
    exec .strFin s = .next (enterFault .outputOverflow s.seq 0x24 s) := by
  simp [exec, execStrFin, unlessFault, raise, opcodeByte, hphase, hfits]

theorem exec_strFin_of_fits (hphase : s.phase = .audio) (hfits : pageFits s = true) :
    exec .strFin s = .next (setPhase .done (emitPending pageFlagsEos (lastGranule s) s)) := by
  simp [exec, execStrFin, unlessFault, hphase, hfits]

/-! ### What the framer's procedures write (R110 to R112) -/

theorem appendPacket_eq (p : Packet) (s : State) :
    appendPacket p s = { s with segtab := s.segtab ++ lace p.length, payload := s.payload ++ p } := by
  simp only [appendPacket, State.segcnt, State.paylen, memWrite_length]

theorem emitPage_eq (flags : Byte) (granule : BitVec 64) (s : State) :
    emitPage flags granule s =
      { s with
        crc := crcOgg (pageImage flags granule s.serial s.seq 0 s.segtab s.payload)
        out := s.out ++ finishedPage flags granule s.serial s.seq s.segtab s.payload
        seq := s.seq + 1, segtab := [], payload := [] } := by
  simp only [emitPage, State.outlen, memWrite_length, serialise, patchChecksum_pageImage]

theorem outFits_eq (table len : Nat) (s : State) :
    outFits (Config.hdrLen + table + len) s = fitsSize (s.outlen + 27 + table + len) s.outCap := by
  rw [outFits, Config.hdrLen, Nat.add_assoc, Nat.add_assoc, Nat.add_assoc]

theorem pageFits_eq (s : State) : pageFits s = fitsSize (s.outlen + 27 + s.segcnt + s.paylen) s.outCap := outFits_eq ..

end

/-! ### `STR.OPEN` (R117, R20) -/

/-- The sum of pre-skip and count does not wrap (R20). -/
theorem toNat_finalGranule {nsamp : BitVec 32} (preskip : BitVec 16) (h : 0 < nsamp.toInt) :
    (finalGranule preskip nsamp).toNat = preskip.toNat + nsamp.toNat := by
  have hpreskip := preskip.isLt
  have hnsamp := nsamp.isLt
  simp only [finalGranule, countKnown, h, decide_true, if_true, BitVec.toNat_add, BitVec.toNat_setWidth]
  omega

/-- Settles O31: `exec_strOpen_of_ready`, the cells of R15 that read `Seq`, and the drop in phase `FAULT`. -/
theorem strOpenBeginsStream : Obligations.StrOpenBeginsStream := by
  intro s serial preskip nsamp
  refine ⟨rfl, fun h => ⟨_, exec_strOpen_of_ready h serial preskip nsamp, rfl, fun hknown => ?_, fun hunknown => ?_⟩,
    fun h => ?_, fun h => exec_of_fault h nofun nofun⟩
  · exact ⟨decide_eq_true hknown, toNat_finalGranule preskip hknown⟩
  · have hcount : countKnown nsamp = false := decide_eq_false hunknown.not_gt
    simp [finalGranule, hcount]
  · have hcell : phaseTable .strOpen s.phase = .sequenceError := by
      obtain hp | hp | hp := h <;> rw [hp] <;> rfl
    exact exec_of_sequenceCell (i := .strOpen serial preskip nsamp) hcell

/-! ### `PKT.HEAD` and `PKT.TAGS` (R118, R119) -/

/-- With no page counted `OUT` is empty and `SEQ` is 0 (R30 (h)). -/
theorem PagesInv.of_head {s : State} (h : PagesInv s) (hphase : s.phase = .head) : s.seq = 0 ∧ s.out = [] := by
  obtain ⟨pages, hpages, hseq, hnone, -⟩ := h
  obtain rfl := List.length_eq_zero_iff.1 (hnone hphase)
  exact ⟨hseq (by rw [hphase]; rfl), (pagesOf_eq_some_iff.1 hpages).1⟩

theorem PagesInv.seq_of_tags {s : State} (h : PagesInv s) (hphase : s.phase = .tags) : s.seq = 1 := by
  obtain ⟨pages, hpages, hseq, -, hone, -⟩ := h
  rw [hseq (by rw [hphase]; rfl), hone (.inl hphase)]
  rfl

/-- Settles O32, guard by guard. -/
theorem pktHeadEmitsFirstPage : Obligations.PktHeadEmitsFirstPage := by
  intro s data
  have hemits (hphase : s.phase = .head) (hlen : data.length ≤ 65024)
      (hfits : fitsSize (s.outlen + 27 + segs data.length + data.length) s.outCap = true) :
      exec (.pktHead data) s = .next (setPhase .tags (emitPage pageFlagsBos 0 (appendPacket data s))) :=
    exec_pktHead_of_fits hphase (segs_le_of_length hlen) ((outFits_eq ..).trans hfits)
  refine ⟨rfl, fun h => exec_of_fault h nofun nofun, exec_of_ne_home (by simp [Instr.opcode]), fun hphase hlen => ?_,
    fun hphase hlen hfits => ?_, fun hphase hlen hfits => ?_, fun hphase hlen hfits hb hpages => ?_⟩
  · exact exec_pktHead_of_tooManySegments hphase (maxSegs_lt_segs hlen)
  · exact exec_pktHead_of_overflow hphase (segs_le_of_length hlen) ((outFits_eq ..).trans hfits)
  · rw [hemits hphase hlen hfits, emitPage_eq, appendPacket_eq]
    rfl
  · obtain ⟨hseq, hout⟩ := hpages.of_head hphase
    have hnil := hb.holdsPackets_nil (.inr (.inl hphase))
    refine ⟨_, hemits hphase hlen hfits, by simp [hseq], rfl, ?_⟩
    have hlength := outlen_emitPage (appendPacket data s) pageFlagsBos 0
    simpa [State.outlen, State.segcnt, State.paylen, hout, hnil.segtab_eq, hnil.payload_eq, Config.hdrLen] using hlength

/-- Settles O33, guard by guard. -/
theorem pktTagsHoldsSecondPage : Obligations.PktTagsHoldsSecondPage := by
  intro s data
  have hheld (hphase : s.phase = .tags) (hlen : data.length ≤ 65024) :
      exec (.pktTags data) s = .next (setPhase .audio (holdTagsPage (appendPacket data s))) :=
    exec_pktTags_of_tags hphase (segs_le_of_length hlen)
  refine ⟨rfl, fun h => exec_of_fault h nofun nofun, exec_of_ne_home (by simp [Instr.opcode]), fun hphase hlen => ?_,
    fun hphase hlen => ?_, fun hphase hlen hb hpages => ?_⟩
  · exact exec_pktTags_of_tooManySegments hphase (maxSegs_lt_segs hlen)
  · rw [hheld hphase hlen, appendPacket_eq]
    rfl
  · have hseq := hpages.seq_of_tags hphase
    have hnil := hb.holdsPackets_nil (.inr (.inr (.inl hphase)))
    exact ⟨_, hheld hphase hlen, hseq, hseq, rfl, rfl, by simp [hnil.segtab_eq], by simp [hnil.payload_eq]⟩

/-! ### `PKT.AUD` and `STR.FIN` (R120, R121) -/

/-- Settles O34, guard by guard. -/
theorem pktAudPlacesPacket : Obligations.PktAudPlacesPacket := by
  intro s data flush fits granule
  have hflush : mustFlush data s = true ↔ flush := by
    rw [mustFlush, Bool.or_eq_true, decide_eq_true_iff]
    rfl
  refine ⟨rfl, fun h => exec_of_fault h nofun nofun, exec_of_ne_home (by simp [Instr.opcode]), fun hphase hlen => ?_,
    fun hphase hlen f hf => ?_, fun hphase hlen d hd => ?_⟩
  · exact exec_pktAud_of_tooManySegments hphase (maxSegs_lt_segs hlen)
  · exact exec_pktAud_of_error hphase (segs_le_of_length hlen) hf
  · have hsegs := segs_le_of_length hlen
    refine ⟨fun h hfits => ?_, fun h => ?_, fun h hfits => ?_⟩
    · exact exec_pktAud_of_overflow hphase hsegs hd (hflush.2 h) ((pageFits_eq s).trans hfits)
    · rw [exec_pktAud_of_join hphase hsegs hd (Bool.eq_false_iff.2 (mt hflush.1 h)), appendPacket_eq]
      rfl
    · rw [exec_pktAud_of_flush hphase hsegs hd (hflush.2 h) ((pageFits_eq s).trans hfits), appendPacket_eq, emitPending,
        emitPage_eq]
      rfl

/-- A page written behind a stream adds its packets to the stream's (R123). -/
theorem packetsOf_concat_packedPage {ps : List Packet} (hsegs : segsOf ps ≤ 255) (pages : List (List Byte)) (flags : Byte)
    (granule : BitVec 64) (serial seq : BitVec 32) :
    packetsOf (pages ++ [packedPage flags granule serial seq ps]) = packetsOf pages ++ ps := by
  simp [packetsOf, pagePackets_packedPage _ _ _ _ hsegs]

/-- Behind a page emitted in `AUDIO`, no audio packet stands in `OUT` exactly where that page was the tags page. -/
theorem Emission.packetsOf_drop_two {s t : State} {flags : Byte} {granule : BitVec 64} {ps : List Packet}
    {pages : List (List Byte)} (h : Emission s t flags granule ps) (hpages : pagesOf s.out = some pages)
    (hinv : PagesInv s) (hphase : s.phase = .audio) :
    packetsOf ((pages ++ [packedPage flags granule s.serial s.seq ps]).drop 2) = [] ↔ s.tagpend = true := by
  obtain ⟨-, -, haudio⟩ := h.length_pages hpages hinv
  obtain ⟨hpos, hheld⟩ := haudio hphase
  rw [hheld]
  refine ⟨fun hnone => by_contra fun hne => ?_, fun hone => ?_⟩
  · rw [List.drop_append_of_le_length (by omega), packetsOf_concat_packedPage h.segs_le, List.append_eq_nil_iff] at hnone
    exact h.ne_nil hnone.2
  · rw [List.drop_eq_nil_of_le (by simp [hone])]
    rfl

/-- Settles O35, guard by guard; the stream's end by the emission of its last page. -/
theorem strFinEmitsLastPage : Obligations.StrFinEmitsLastPage := by
  intro s fits granule
  refine ⟨rfl, fun h => exec_of_fault h nofun nofun, exec_of_ne_home (by simp [Instr.opcode]), fun hphase hfits => ?_,
    fun hphase hfits => ?_, fun hphase hfits hb hpagesInv => ?_⟩
  · exact exec_strFin_of_overflow hphase ((pageFits_eq s).trans hfits)
  · rw [exec_strFin_of_fits hphase ((pageFits_eq s).trans hfits), emitPending, emitPage_eq]
    rfl
  · have he := emission_finished hb hphase
    obtain ⟨pages, hpages, -⟩ := id hpagesInv
    obtain ⟨hseq, -, haudio⟩ := he.length_pages hpages hpagesInv
    obtain ⟨-, hheld⟩ := haudio hphase
    have hnone := he.packetsOf_drop_two hpages hpagesInv hphase
    refine ⟨_, _, exec_strFin_of_fits hphase ((pageFits_eq s).trans hfits), rfl, rfl, he.pagesOf_out hpages, ?_, hnone,
      fun h => ?_⟩
    · rw [he.seq_eq, hseq, List.length_append, List.length_singleton, BitVec.ofNat_add]
      rfl
    · have htag := hnone.1 h
      obtain ⟨first, rfl⟩ := List.length_eq_one_iff.1 (hheld.1 htag)
      refine ⟨first, _, rfl, pageFlags_packedPage .., ?_⟩
      rw [pageGranule_packedPage, if_pos htag]
      rfl

end Sys2Proof.Machine

namespace Sys2Proof.Machine

/-! ### The packets in `OUT` and in the pending page (R123) -/

/-- The packets that a command hands to the framer. -/
def packetsPlaced : Instr → List Packet
  | .pktHead data => [data]
  | .pktTags data => [data]
  | .pktAud data => [data]
  | .nop | .rst | .rd _ | .crcClr | .crcUpd8 _ | .crcUpd _ | .durCalc _ | .strOpen _ _ _ | .strFin => []

/-- The pages of `OUT`, and behind them the pending page, which is empty outside `AUDIO`, hold the packets `ps` in order. -/
def Framed (s : State) (ps : List Packet) : Prop :=
  ∃ pages qs, pagesOf s.out = some pages ∧ HoldsPackets s qs ∧ segsOf qs ≤ 255 ∧ (s.phase ≠ .audio → qs = []) ∧
    packetsOf pages ++ qs = ps

section
variable {s t u : State} {i : Instr} {ps qs : List Packet}

theorem framed_openStream (serial : BitVec 32) (preskip : BitVec 16) (nsamp : BitVec 32) (s : State) :
    Framed (openStream serial preskip nsamp s) [] :=
  ⟨[], [], rfl, ⟨rfl, rfl⟩, Nat.zero_le _, fun _ => rfl, rfl⟩

theorem Framed.congr (h : Framed s ps) (hphase : t.phase = s.phase) (hsegtab : t.segtab = s.segtab)
    (hpayload : t.payload = s.payload) (hout : t.out = s.out) : Framed t ps := by
  obtain ⟨pages, qs, hpages, hqs, hsegs, hresting, hpackets⟩ := h
  exact ⟨pages, qs, hout ▸ hpages, ⟨hsegtab ▸ hqs.segtab_eq, hpayload ▸ hqs.payload_eq⟩, hsegs, hphase ▸ hresting, hpackets⟩

/-- The page of the packets `qs` written behind a stream adds them to the stream's packets. -/
theorem pagesOf_append_packedPage {bytes : List Byte} {pages : List (List Byte)} (hpages : pagesOf bytes = some pages)
    (hsegs : segsOf qs ≤ 255) (flags : Byte) (granule : BitVec 64) (serial seq : BitVec 32) :
    ∃ pages', pagesOf (bytes ++ packedPage flags granule serial seq qs) = some pages' ∧
      packetsOf pages' = packetsOf pages ++ qs :=
  ⟨_, pagesOf_append hpages (wholePage_packedPage _ _ _ _ hsegs), packetsOf_concat_packedPage hsegs ..⟩

theorem HoldsPackets.emitPage_out (h : HoldsPackets s qs) (flags : Byte) (granule : BitVec 64) :
    (emitPage flags granule s).out = s.out ++ packedPage flags granule s.serial s.seq qs := by
  rw [Machine.emitPage_out, h.patchChecksum_serialise]

theorem HoldsPackets.emitPending_out (h : HoldsPackets s qs) (flags : Byte) (granule : BitVec 64) :
    (emitPending flags granule s).out = s.out ++ packedPage flags (if s.tagpend then 0 else granule) s.serial s.seq qs :=
  h.emitPage_out ..

theorem HoldsPackets.setDuration (h : HoldsPackets s qs) (d : Duration) : HoldsPackets (setDuration d s) qs :=
  ⟨h.segtab_eq, h.payload_eq⟩

/-- The packet that `PKT.AUD` places behind a flush is alone in the pending page (R120). -/
theorem holdsPackets_flushed (n : Nat) (data : Packet) (flags : Byte) (granule : BitVec 64) (s : State) :
    HoldsPackets (countPacket n (appendPacket data (emitPending flags granule s))) [data] :=
  ⟨by simp, by simp⟩

/-- Every command of an open stream that does not fault places its packets behind those there. -/
theorem Framed.effect (h : Framed s ps) (heffect : Effect s i t) (hrst : i ≠ .rst) (hopen : i.opcode ≠ .strOpen)
    (ht : t.phase ≠ .fault) : Framed t (ps ++ packetsPlaced i) := by
  obtain ⟨pages, qs, hpages, hqs, hsegs, hresting, rfl⟩ := id h
  cases heffect with
  | nop | responded | crcCleared | crcStepped | crcFolded | measured =>
    rw [packetsPlaced, List.append_nil]
    exact h.congr rfl rfl rfl rfl
  | rst => exact absurd rfl hrst
  | opened => exact absurd rfl hopen
  | dropped _ hfault => exact absurd hfault ht
  | faulted => exact absurd rfl ht
  | headEmitted data hphase hlen =>
    obtain rfl := hresting (by simp [hphase])
    have hout := (hqs.append data).emitPage_out pageFlagsBos 0
    obtain ⟨pages', hpages', hpackets⟩ := pagesOf_append_packedPage hpages (qs := [data]) hlen ..
    exact ⟨pages', [], hout ▸ hpages', ⟨by simp, by simp⟩, Nat.zero_le _, fun _ => rfl, by simp [hpackets, packetsPlaced]⟩
  | tagsHeld data hphase hlen =>
    obtain rfl := hresting (by simp [hphase])
    have happ := hqs.append data
    exact ⟨pages, [data], hpages, ⟨happ.segtab_eq, happ.payload_eq⟩, hlen, by simp, by simp [packetsPlaced]⟩
  | audioJoined data d hphase _ _ hjoin =>
    have happ := (hqs.setDuration d).append data
    have hsum : segsOf (qs ++ [data]) ≤ 255 := by
      rw [segsOf_append_singleton, ← hqs.segcnt_eq]
      exact hjoin
    exact ⟨pages, qs ++ [data], hpages, ⟨happ.segtab_eq, happ.payload_eq⟩, hsum, by simp [hphase],
      by simp [packetsPlaced]⟩
  | audioFlushed data d hphase _ hlen =>
    have hout := (hqs.setDuration d).emitPending_out pageFlagsNone s.gran
    obtain ⟨pages', hpages', hpackets⟩ := pagesOf_append_packedPage hpages hsegs ..
    exact ⟨pages', [data], hout ▸ hpages', holdsPackets_flushed .., hlen, by simp [hphase],
      by simp [hpackets, packetsPlaced]⟩
  | finished hphase =>
    have hout := hqs.emitPending_out pageFlagsEos (lastGranule s)
    obtain ⟨pages', hpages', hpackets⟩ := pagesOf_append_packedPage hpages hsegs ..
    exact ⟨pages', [], hout ▸ hpages', ⟨by simp, by simp⟩, Nat.zero_le _, fun _ => rfl, by simp [hpackets, packetsPlaced]⟩

/-- Only `RST` leaves phase `FAULT` (R15, R161). -/
theorem Effect.phase_of_fault (h : Effect s i t) (hrst : i ≠ .rst) (hs : s.phase = .fault) : t.phase = .fault := by
  obtain hcell | ⟨-, rfl⟩ | ⟨f, hne, -⟩ := h.cell_cases
  · rw [hs] at hcell
    obtain hdrop | hstay := phaseTable_fault hrst
    · cases hdrop.symm.trans hcell
    · exact (PhaseCell.leadsTo.inj (hstay.symm.trans hcell)).symm
  · exact hs
  · exact absurd hs hne

theorem execAll_phase_of_fault {is : List Instr} (hrst : ∀ i ∈ is, i ≠ .rst) (hs : s.phase = .fault)
    (h : execAll is s = .next u) : u.phase = .fault := by
  induction is generalizing s with
  | nil => cases h; exact hs
  | cons i is ih =>
    obtain ⟨hi, his⟩ := List.forall_mem_cons.1 hrst
    obtain ⟨t, hexec, heffect⟩ := exec_effect i s
    exact ih his (heffect.phase_of_fault hi hs) ((execAll_cons_of_exec hexec is).symm.trans h)

/-- A command list that ends outside `FAULT` never was in it, so each of its commands placed its packets. -/
theorem Framed.execAll {is : List Instr} (hs : Framed s ps) (his : ∀ i ∈ is, i ≠ .rst ∧ i.opcode ≠ .strOpen)
    (h : execAll is s = .next u) (hu : u.phase ≠ .fault) : Framed u (ps ++ is.flatMap packetsPlaced) := by
  induction is generalizing s ps with
  | nil => cases h; simpa using hs
  | cons i is ih =>
    obtain ⟨⟨hrst, hopen⟩, his⟩ := List.forall_mem_cons.1 his
    obtain ⟨t, hexec, heffect⟩ := exec_effect i s
    rw [execAll_cons_of_exec hexec] at h
    have ht : t.phase ≠ .fault := fun hfault => hu (execAll_phase_of_fault (fun j hj => (his j hj).1) hfault h)
    rw [List.flatMap_cons, ← List.append_assoc]
    exact ih (hs.effect heffect hrst hopen ht) his h

end

theorem streamCommands_eq (serial : BitVec 32) (preskip : BitVec 16) (nsamp : BitVec 32) (h t : Packet) (ps : List Packet) :
    streamCommands serial preskip nsamp h t ps =
      .strOpen serial preskip nsamp :: .pktHead h :: .pktTags t :: (ps.map .pktAud ++ [.strFin]) := rfl

/-- Behind `STR.OPEN` the commands of a stream open or reset nothing. -/
theorem streamCommands_tail {i : Instr} {h t : Packet} {ps : List Packet}
    (hi : i ∈ .pktHead h :: .pktTags t :: (ps.map .pktAud ++ [.strFin])) : i ≠ .rst ∧ i.opcode ≠ .strOpen := by
  simp only [List.mem_append, List.mem_cons, List.mem_map, List.not_mem_nil, or_false] at hi
  obtain rfl | rfl | ⟨p, -, rfl⟩ | rfl := hi
  all_goals exact ⟨nofun, nofun⟩

/-- Settles O57: from `STR.OPEN` on every command places its packet (`Framed.execAll`), and in `DONE` none is pending. -/
theorem finishedStreamHoldsItsPackets : Obligations.FinishedStreamHoldsItsPackets := by
  intro s u serial preskip nsamp h t ps hready hexec hdone
  rw [streamCommands_eq, execAll_cons_of_exec (exec_strOpen_of_ready hready ..)] at hexec
  have hframed := (framed_openStream serial preskip nsamp s).execAll (fun _ => streamCommands_tail) hexec (by simp [hdone])
  obtain ⟨pages, qs, hpages, -, -, hresting, hpackets⟩ := hframed
  obtain rfl := hresting (by simp [hdone])
  exact ⟨pages, hpages, by simpa [packetsPlaced, List.flatMap_map] using hpackets⟩

end Sys2Proof.Machine

namespace Sys2Proof.Machine

/-! ### The batch muxer's pages (R111 to R116) -/

/-- A page of the batch muxer is the finished page of its packets. -/
theorem sealedPage_eq (serial : BitVec 32) (flags : Byte) (granule seq : Nat) (ps : List Packet) :
    sealedPage serial flags granule seq ps =
      packedPage flags (BitVec.ofNat 64 granule) serial (BitVec.ofNat 32 seq) ps :=
  patchChecksum_pageImage ..

theorem length_sealedPage (serial : BitVec 32) (flags : Byte) (granule seq : Nat) (ps : List Packet) :
    (sealedPage serial flags granule seq ps).length = Config.hdrLen + segsOf ps + ps.flatten.length := by
  rw [sealedPage_eq, packedPage, finishedPage, length_pageImage, length_tableOf]

theorem packPages_ne_nil (page ps : List Packet) : packPages page ps ≠ [] := by
  induction ps generalizing page with
  | nil => nofun
  | cons p ps ih =>
    rw [packPages]
    split
    · exact ih _
    · nofun

/-- A page that is not the last one (R113, R115). -/
theorem audioBytes_cons {rest : List (List Packet)} (h : rest ≠ []) (serial : BitVec 32) (finalKnown : Option Nat)
    (seq samples : Nat) (ps : List Packet) :
    audioBytes serial finalKnown seq samples (ps :: rest) =
      sealedPage serial pageFlagsNone (samples + totalSamples ps) seq ps
        ++ audioBytes serial finalKnown (seq + 1) (samples + totalSamples ps) rest := by
  cases rest with
  | nil => exact absurd rfl h
  | cons q rest => rfl

/-- The batch muxer's bytes from page 1 on (R116). -/
def bytesFromTags (serial : BitVec 32) (finalKnown : Option Nat) (t : Packet) (ps : List Packet) : List Byte :=
  sealedPage serial (if ps.isEmpty then pageFlagsEos else pageFlagsNone) 0 1 [t]
    ++ audioBytes serial finalKnown 2 0 (audioPages ps)

theorem muxBatch_eq (serial : BitVec 32) (preskip : BitVec 16) (nsamp : BitVec 32) (h t : Packet) (ps : List Packet) :
    muxBatch serial preskip nsamp h t ps =
      sealedPage serial pageFlagsBos 0 0 [h] ++ bytesFromTags serial (finalPosition preskip nsamp) t ps :=
  List.append_assoc ..

theorem bytesFromTags_nil (serial : BitVec 32) (finalKnown : Option Nat) (t : Packet) :
    bytesFromTags serial finalKnown t [] = sealedPage serial pageFlagsEos 0 1 [t] :=
  List.append_nil _

theorem bytesFromTags_cons (serial : BitVec 32) (finalKnown : Option Nat) (t p : Packet) (ps : List Packet) :
    bytesFromTags serial finalKnown t (p :: ps) =
      sealedPage serial pageFlagsNone 0 1 [t] ++ audioBytes serial finalKnown 2 0 (packPages [p] ps) := rfl

/-! ### The block in `AUDIO` and the batch muxer in its page loop -/

/-- The final granule position, where it is known (R20). -/
def knownFinal (s : State) : Option Nat := if s.finalv then some s.final.toNat else none

theorem knownFinal_congr {s t : State} (hfinalv : t.finalv = s.finalv) (hfinal : t.final = s.final) :
    knownFinal t = knownFinal s := by
  simp only [knownFinal, hfinalv, hfinal]

theorem knownFinal_openStream (serial : BitVec 32) (preskip : BitVec 16) (nsamp : BitVec 32) (s : State) :
    knownFinal (openStream serial preskip nsamp s) = finalPosition preskip nsamp := by
  by_cases h : 0 < nsamp.toInt
  · simp [knownFinal, finalPosition, countKnown, h, toNat_finalGranule]
  · simp [knownFinal, finalPosition, countKnown, h]

/-- The block fills the page that the batch muxer fills: the packets `qs` are pending, the page's sequence number is `seq`,
and `samples` is the running accumulator before the page. -/
structure Filling (s : State) (serial : BitVec 32) (finalKnown : Option Nat) (seq samples : Nat) (qs : List Packet) : Prop
    where
  phase_eq : s.phase = .audio
  tagpend_eq : s.tagpend = false
  holds : HoldsPackets s qs
  serial_eq : s.serial = serial
  final_eq : knownFinal s = finalKnown
  seq_eq : s.seq = BitVec.ofNat 32 seq
  gran_eq : s.gran = BitVec.ofNat 64 (samples + totalSamples qs)

/-- The block holds the tags page `t`, with no audio packet placed. -/
structure HoldsTags (s : State) (serial : BitVec 32) (finalKnown : Option Nat) (t : Packet) : Prop where
  phase_eq : s.phase = .audio
  tagpend_eq : s.tagpend = true
  holds : HoldsPackets s [t]
  serial_eq : s.serial = serial
  final_eq : knownFinal s = finalKnown
  seq_eq : s.seq = 1
  gran_eq : s.gran = 0

section
variable {s : State} {p t : Packet} {d : Duration} {ps qs : List Packet} {serial : BitVec 32} {finalKnown : Option Nat}
  {seq samples : Nat}

/-- There is room for the pending page where a stream that goes on with it is within the capacity (R112). -/
theorem HoldsPackets.pageFits (h : HoldsPackets s qs) {flags : Byte} {granule : Nat} {rest : List Byte}
    (hfits : fitsSize (s.out ++ (sealedPage serial flags granule seq qs ++ rest)).length s.outCap = true) :
    pageFits s = true := by
  refine fitsSize_of_le hfits ?_
  rw [List.length_append, List.length_append, length_sealedPage, h.segcnt_eq, State.paylen, h.payload_eq, State.outlen]
  omega

/-- The packet begins the next page: the accumulator before it is `GRAN` before it (R120). -/
theorem filling_flushed (hphase : s.phase = .audio) (hd : nbSamples p = .ok d) (hserial : s.serial = serial)
    (hfinal : knownFinal s = finalKnown) (hseq : s.seq = BitVec.ofNat 32 seq) (hgran : s.gran = BitVec.ofNat 64 samples) :
    Filling (countPacket d.n (appendPacket p (emitPending pageFlagsNone s.gran (setDuration d s)))) serial finalKnown
      (seq + 1) samples [p] where
  phase_eq := by simp [hphase]
  tagpend_eq := by simp
  holds := holdsPackets_flushed ..
  serial_eq := by simp [hserial]
  final_eq := (knownFinal_congr (by simp) (by simp)).trans hfinal
  seq_eq := by simp [hseq, BitVec.ofNat_add]
  gran_eq := by simp [hgran, totalSamples_singleton hd, BitVec.ofNat_add]

/-- The packet joins the page. -/
theorem Filling.joined (h : Filling s serial finalKnown seq samples qs) (hd : nbSamples p = .ok d) :
    Filling (countPacket d.n (appendPacket p (setDuration d s))) serial finalKnown seq samples (qs ++ [p]) where
  phase_eq := by simp [h.phase_eq]
  tagpend_eq := by simp [h.tagpend_eq]
  holds := by
    have happ := (h.holds.setDuration d).append p
    exact ⟨happ.segtab_eq, happ.payload_eq⟩
  serial_eq := by simp [h.serial_eq]
  final_eq := (knownFinal_congr (by simp) (by simp)).trans h.final_eq
  seq_eq := by simp [h.seq_eq]
  gran_eq := by simp [h.gran_eq, totalSamples_singleton hd, BitVec.ofNat_add, BitVec.add_assoc]

/-- The page emitted by a flush of the page being filled is the batch muxer's (R113). -/
theorem Filling.flushed_out (h : Filling s serial finalKnown seq samples qs) (p : Packet) (d : Duration) :
    (countPacket d.n (appendPacket p (emitPending pageFlagsNone s.gran (setDuration d s)))).out =
      s.out ++ sealedPage serial pageFlagsNone (samples + totalSamples qs) seq qs := by
  rw [countPacket_out, appendPacket_out, (h.holds.setDuration d).emitPending_out, sealedPage_eq]
  simp [h.tagpend_eq, h.serial_eq, h.seq_eq, h.gran_eq]

theorem Filling.lastGranule_eq (h : Filling s serial finalKnown seq samples qs) :
    lastGranule s = BitVec.ofNat 64 (finalKnown.getD (samples + totalSamples qs)) := by
  rw [← h.final_eq, lastGranule, knownFinal]
  split
  · simp
  · simp [h.gran_eq]

/-- `STR.FIN` emits the batch muxer's last page (R113, R121). -/
theorem Filling.finished_out (h : Filling s serial finalKnown seq samples qs) :
    (setPhase .done (emitPending pageFlagsEos (lastGranule s) s)).out =
      s.out ++ sealedPage serial pageFlagsEos (finalKnown.getD (samples + totalSamples qs)) seq qs := by
  rw [setPhase_out, h.holds.emitPending_out, sealedPage_eq, h.lastGranule_eq, h.serial_eq, h.seq_eq, h.tagpend_eq]
  rfl

/-- The rest of the stream, by induction on its packets: each either joins the page or begins the next one, as the batch
muxer decides (R114). -/
theorem Filling.execAll (h : Filling s serial finalKnown seq samples qs)
    (hps : ∀ p ∈ ps, p.length ≤ 65024 ∧ ∃ d, nbSamples p = .ok d)
    (hfits : fitsSize (s.out ++ audioBytes serial finalKnown seq samples (packPages qs ps)).length s.outCap = true) :
    ∃ u, execAll (ps.map .pktAud ++ [.strFin]) s = .next u ∧ u.phase = .done ∧
      u.out = s.out ++ audioBytes serial finalKnown seq samples (packPages qs ps) := by
  induction ps generalizing s seq samples qs with
  | nil =>
    have hfits' : pageFits s = true := h.holds.pageFits (rest := []) (by rwa [List.append_nil])
    exact ⟨_, execAll_cons_of_exec (exec_strFin_of_fits h.phase_eq hfits') [], rfl, h.finished_out⟩
  | cons p ps ih =>
    obtain ⟨⟨hlen, d, hd⟩, hps⟩ := List.forall_mem_cons.1 hps
    have hsegs := segs_le_of_length hlen
    by_cases hjoin : segsOf qs + segs p.length ≤ Config.maxSegs
    · have hflush : mustFlush p s = false := (mustFlush_eq_false_iff p s).2 ⟨h.tagpend_eq, h.holds.segcnt_eq ▸ hjoin⟩
      rw [packPages, if_pos hjoin] at hfits ⊢
      rw [List.map_cons, List.cons_append, execAll_cons_of_exec (exec_pktAud_of_join h.phase_eq hsegs hd hflush)]
      exact ih (h.joined hd) hps hfits
    · have hflush : mustFlush p s = true := by
        rw [← Bool.not_eq_false, mustFlush_eq_false_iff, h.holds.segcnt_eq]
        tauto
      rw [packPages, if_neg hjoin, audioBytes_cons (packPages_ne_nil _ _)] at hfits ⊢
      have hroom := h.holds.pageFits hfits
      rw [← List.append_assoc, ← h.flushed_out p d] at hfits ⊢
      rw [List.map_cons, List.cons_append, execAll_cons_of_exec (exec_pktAud_of_flush h.phase_eq hsegs hd hflush hroom)]
      exact ih (filling_flushed h.phase_eq hd h.serial_eq h.final_eq h.seq_eq h.gran_eq) hps hfits

/-! ### The pages before the audio pages (R116, R118, R119) -/

/-- A flush of the tags page emits the batch muxer's page 1. -/
theorem HoldsTags.flushed_out (h : HoldsTags s serial finalKnown t) (p : Packet) (d : Duration) :
    (countPacket d.n (appendPacket p (emitPending pageFlagsNone s.gran (setDuration d s)))).out =
      s.out ++ sealedPage serial pageFlagsNone 0 1 [t] := by
  rw [countPacket_out, appendPacket_out, (h.holds.setDuration d).emitPending_out, sealedPage_eq]
  simp [h.tagpend_eq, h.serial_eq, h.seq_eq]

/-- With no audio packet `STR.FIN` emits it with the end-of-stream flag (C5). -/
theorem HoldsTags.finished_out (h : HoldsTags s serial finalKnown t) :
    (setPhase .done (emitPending pageFlagsEos (lastGranule s) s)).out = s.out ++ sealedPage serial pageFlagsEos 0 1 [t] := by
  rw [setPhase_out, h.holds.emitPending_out, sealedPage_eq, h.serial_eq, h.seq_eq, h.tagpend_eq]
  rfl

/-- The stream from the tags page on. -/
theorem HoldsTags.execAll (h : HoldsTags s serial finalKnown t)
    (hps : ∀ p ∈ ps, p.length ≤ 65024 ∧ ∃ d, nbSamples p = .ok d)
    (hfits : fitsSize (s.out ++ bytesFromTags serial finalKnown t ps).length s.outCap = true) :
    ∃ u, execAll (ps.map .pktAud ++ [.strFin]) s = .next u ∧ u.phase = .done ∧
      u.out = s.out ++ bytesFromTags serial finalKnown t ps := by
  have hroom : pageFits s = true := h.holds.pageFits hfits
  cases ps with
  | nil =>
    refine ⟨_, execAll_cons_of_exec (exec_strFin_of_fits h.phase_eq hroom) [], rfl, ?_⟩
    rw [h.finished_out, bytesFromTags_nil]
  | cons p ps =>
    obtain ⟨⟨hlen, d, hd⟩, hps⟩ := List.forall_mem_cons.1 hps
    have hflush : mustFlush p s = true := by simp [mustFlush, h.tagpend_eq]
    rw [bytesFromTags_cons, ← List.append_assoc, ← h.flushed_out p d] at hfits ⊢
    rw [List.map_cons, List.cons_append,
      execAll_cons_of_exec (exec_pktAud_of_flush h.phase_eq (segs_le_of_length hlen) hd hflush hroom)]
    have hfilling := filling_flushed (seq := 1) (samples := 0) h.phase_eq hd h.serial_eq h.final_eq h.seq_eq h.gran_eq
    exact hfilling.execAll hps hfits

end

/-- The block after `STR.OPEN`, `PKT.HEAD` and `PKT.TAGS`: page 0 is out and the tags page is held. -/
def afterHeaders (serial : BitVec 32) (preskip : BitVec 16) (nsamp : BitVec 32) (h t : Packet) (s : State) : State :=
  setPhase .audio (holdTagsPage (appendPacket t
    (setPhase .tags (emitPage pageFlagsBos 0 (appendPacket h (openStream serial preskip nsamp s))))))

section
variable (serial : BitVec 32) (preskip : BitVec 16) (nsamp : BitVec 32) (h t : Packet) (s : State)

theorem afterHeaders_out : (afterHeaders serial preskip nsamp h t s).out = sealedPage serial pageFlagsBos 0 0 [h] := by
  have hnil : HoldsPackets (openStream serial preskip nsamp s) [] := ⟨rfl, rfl⟩
  have hout := (hnil.append h).emitPage_out pageFlagsBos 0
  rw [sealedPage_eq]
  exact hout

theorem holdsTags_afterHeaders :
    HoldsTags (afterHeaders serial preskip nsamp h t s) serial (finalPosition preskip nsamp) t where
  phase_eq := rfl
  tagpend_eq := rfl
  holds := ⟨by simp [afterHeaders], by simp [afterHeaders]⟩
  serial_eq := by simp [afterHeaders]
  final_eq := by
    rw [← knownFinal_openStream serial preskip nsamp s]
    exact knownFinal_congr (by simp [afterHeaders]) (by simp [afterHeaders])
  seq_eq := by simp [afterHeaders]
  gran_eq := by simp [afterHeaders]

variable {serial preskip nsamp h t s}

/-- The first three commands of a stream (R117 to R119). -/
theorem execAll_headers (hready : s.phase = .idle ∨ s.phase = .done) (hh : h.length ≤ 65024) (ht : t.length ≤ 65024)
    (hfits : fitsSize (sealedPage serial pageFlagsBos 0 0 [h]).length s.outCap = true) (is : List Instr) :
    execAll (.strOpen serial preskip nsamp :: .pktHead h :: .pktTags t :: is) s =
      execAll is (afterHeaders serial preskip nsamp h t s) := by
  have hroom : outFits (Config.hdrLen + segs h.length + h.length) (openStream serial preskip nsamp s) = true := by
    simpa [length_sealedPage, outFits, State.outlen] using hfits
  rw [execAll_cons_of_exec (exec_strOpen_of_ready hready ..),
    execAll_cons_of_exec (exec_pktHead_of_fits rfl (segs_le_of_length hh) hroom),
    execAll_cons_of_exec (exec_pktTags_of_tags rfl (segs_le_of_length ht))]
  rfl

end

/-- Settles O56: `HoldsTags.execAll` behind the first three commands. -/
theorem streamEqualsBatchMuxer : Obligations.StreamEqualsBatchMuxer := by
  intro s serial preskip nsamp h t ps hready hh ht hps hfits
  have hroom : fitsSize (sealedPage serial pageFlagsBos 0 0 [h]).length s.outCap = true :=
    fitsSize_of_le hfits (by rw [muxBatch_eq, List.length_append]; omega)
  rw [streamCommands_eq, execAll_headers hready hh ht hroom]
  rw [muxBatch_eq, ← afterHeaders_out serial preskip nsamp h t s] at hfits ⊢
  obtain ⟨u, hexec, hdone, hout⟩ := (holdsTags_afterHeaders serial preskip nsamp h t s).execAll hps hfits
  exact ⟨u, hexec, hdone, (if_pos hdone).trans (congrArg some hout)⟩

end Sys2Proof.Machine

namespace Sys2Proof.Machine

/-! ### `NOP` and runs of zero bytes (R140) -/

theorem exec_nop (s : State) : exec .nop s = .next s := rfl

theorem execAll_replicate_nop (n : Nat) (s : State) : execAll (List.replicate n .nop) s = .next s := by
  induction n with
  | zero => rfl
  | succ n ih => rw [List.replicate_succ, execAll_cons_of_exec (exec_nop s), ih]

theorem encode_nop : encode .nop = [0x00] := rfl

/-- A run of zero bytes is the encoding of a run of `NOP`s. -/
theorem flatMap_encode_replicate_nop (n : Nat) : (List.replicate n Instr.nop).flatMap encode = List.replicate n 0x00 := by
  rw [List.flatMap_replicate, encode_nop, List.flatten_replicate_singleton]

/-- Settles O22: the zero bytes are `n` `NOP`s, which the steps execute in order (`stepsRunCommandsInOrder`). -/
theorem nopChangesNothing : Obligations.NopChangesNothing := by
  refine ⟨encode_nop, exec_nop, fun n s rest hdesync hcmd => ?_⟩
  have hwf : ∀ i ∈ List.replicate n Instr.nop, i.wellFormed = true := fun i hi => by rw [List.eq_of_mem_replicate hi]; rfl
  rw [← flatMap_encode_replicate_nop] at hcmd
  have hrun := stepsRunCommandsInOrder _ s rest hwf hdesync hcmd
  rwa [List.length_replicate, execAll_replicate_nop] at hrun

end Sys2Proof.Machine

namespace Sys2Proof.Machine

/-! ### `RD` of a reserved number (R12, R156, R162) -/

/-- R12's map ends at 0x11. -/
theorem readReg_eq_none_iff (reg : Byte) (s : State) : readReg reg s = none ↔ 0x12 ≤ reg.toNat := by
  unfold readReg
  split
  case h_19 => simp only [true_iff, imp_false] at *; omega
  all_goals simp only [reduceCtorEq, false_iff]; omega

/-- `RD` of a number that R12 does not list raises `IllegalRegister` with that number, and is dropped in phase `FAULT`. -/
theorem exec_rd_of_reserved {reg : Byte} (hreg : 0x12 ≤ reg.toNat) (s : State) :
    exec (.rd reg) s = .next (unlessFault (raise .illegalRegister (reg.setWidth 32) 0x02) s) := by
  rw [exec, execRd, (readReg_eq_none_iff reg s).2 hreg]
  rfl

theorem exec_rd_of_reserved_of_fault {reg : Byte} (hreg : 0x12 ≤ reg.toNat) {s : State} (h : s.phase = .fault) :
    exec (.rd reg) s = .next s := by
  rw [exec_rd_of_reserved hreg, unlessFault_of_fault s _ h]

/-- Settles O25: `exec_rd_of_reserved`, in the two kinds of phase. -/
theorem rdOfReservedNumberFaults : Obligations.RdOfReservedNumberFaults := by
  refine fun s reg hreg => ⟨fun h => ?_, exec_rd_of_reserved_of_fault hreg⟩
  rw [exec_rd_of_reserved hreg, unlessFault_of_ne s _ h, raise_of_ne s _ _ _ h, BitVec.ofNat_toNat]
  rfl

/-- Settles O39: a step that fetches a command executes it (`step_of_fetchCommand`), and in phase `FAULT` only `NOP`, `RST`
and `RD` of a register have an effect (`exec_of_fault`, `exec_rd_of_reserved_of_fault`). -/
theorem faultPhaseDropsCommands : Obligations.FaultPhaseDropsCommands := by
  intro s i rest hphase hfetch
  rw [step_of_fetchCommand hfetch]
  refine ⟨fun hrst => hrst ▸ rfl, ?_, fun hrst hreserved => ?_⟩
  · rintro reg rfl hreg
    have hmapped : readReg reg (takeCommand rest s) ≠ none := by rw [Ne, readReg_eq_none_iff]; omega
    obtain ⟨v, hv⟩ := Option.ne_none_iff_exists'.1 hmapped
    exact ⟨v, exec_rd_of_readReg hv⟩
  · cases i with
    | rst => exact absurd rfl hrst
    | rd reg => exact exec_rd_of_reserved_of_fault (hreserved reg rfl) hphase
    | _ => exact exec_of_fault hphase nofun nofun

/-! ### The decoder's own fault (R68, R155) -/

/-- A verdict of illegal names the first byte of what was to be decoded. -/
theorem head_of_decode_illegal {bytes : List Byte} {op : Byte} (h : decode bytes = .illegal op) :
    ∃ rest, bytes = op :: rest := by
  cases bytes with
  | nil => cases h
  | cons b rest => exact ⟨rest, by rw [(decode_cons_eq_illegal_iff.1 h).2]⟩

/-- Outside phase `FAULT` the decoder's fault is fault entry with `DESYNC` set (R155, R160). -/
theorem takeIllegal_of_ne {s : State} (h : s.phase ≠ .fault) (op : Byte) :
    takeIllegal op s =
      { s with
        cmd := s.cmd.tail, err := 0x05, errinfo := 0, errop := op, out := [], phase := .fault, desync := true } := by
  rw [takeIllegal, raiseIllegalCommand, raise_of_ne (takeCommand s.cmd.tail s) _ _ _ h]
  rfl

/-- In phase `FAULT` it sets `DESYNC` only (R155, R161). -/
theorem takeIllegal_of_fault {s : State} (h : s.phase = .fault) (op : Byte) :
    takeIllegal op s = { s with cmd := s.cmd.tail, desync := true } := by
  rw [takeIllegal, raiseIllegalCommand, raise_of_fault (takeCommand s.cmd.tail s) _ _ _ h]
  rfl

/-- Settles O8: the byte is none of R67's (`opcodeOf_eq_none_iff`), so the step is `takeIllegal`; a desynchronised block
waits. -/
theorem illegalOpcodeStopsDecoder : Obligations.IllegalOpcodeStopsDecoder := by
  refine ⟨fun s op rest hdesync hcmd hop => ?_, fun s => step_of_desync⟩
  have hreserved : opcodeOf op = none := by
    have hlt := op.isLt
    rw [opcodeOf_eq_none_iff]
    simp only [List.mem_cons, List.not_mem_nil] at hop
    omega
  have hfetch : fetchCommand s = .illegal op := by
    rw [fetchCommand_of_sync hdesync, hcmd]
    exact decode_cons_eq_illegal_iff.2 ⟨hreserved, rfl⟩
  have hstep : step s = .next (takeIllegal op s) := by rw [step, hfetch]
  rw [hstep]
  exact ⟨fun h => by rw [takeIllegal_of_ne h, hcmd]; rfl, fun h => by rw [takeIllegal_of_fault h, hcmd]; rfl⟩

/-! ### Fault entry and the fault record (R160, R161) -/

/-- No cell of R15 names phase `FAULT` outside it: a command enters it by a fault only. -/
theorem phaseTable_ne_leadsTo_fault (o : Opcode) {p : Phase} (hp : p ≠ .fault) : phaseTable o p ≠ .leadsTo .fault := by
  cases p with
  | fault => exact absurd rfl hp
  | _ => cases o <;> decide

/-- A command that enters phase `FAULT` raised a fault that R150 lets it raise. -/
theorem Effect.raised {s t : State} {i : Instr} (h : Effect s i t) (hs : s.phase ≠ .fault) (ht : t.phase = .fault) :
    ∃ f, mayRaise f i.opcode = true ∧ t = enterFault f (faultInfo f i s) (opcodeByte i.opcode) s := by
  obtain hcell | ⟨-, rfl⟩ | ⟨f, -, hmay, -, heq⟩ := h.cell_cases
  · rw [ht] at hcell
    exact absurd hcell (phaseTable_ne_leadsTo_fault _ hs)
  · exact absurd ht hs
  · exact ⟨f, hmay, heq⟩

/-- R150's column `ERRINFO` does not read `CMD`. -/
theorem faultInfo_takeCommand (f : FaultCode) (i : Instr) (rest : List Byte) (s : State) :
    faultInfo f i (takeCommand rest s) = faultInfo f i s := by
  cases f <;> rfl

/-- Settles O38: what enters phase `FAULT` is a command that raised a fault (`Effect.raised`), or the decoder. -/
theorem faultEntryIsPrecise : Obligations.FaultEntryIsPrecise := by
  intro s t hs hstep ht
  obtain ⟨i, rest, hdesync, hdecode, hexec⟩ | ⟨op, hdesync, hdecode, rfl⟩ | ⟨-, rfl⟩ := step_cases hstep
  · obtain ⟨f, hmay, rfl⟩ := (effect_of_exec hexec).raised hs ht
    rw [faultInfo_takeCommand]
    exact .inl ⟨i, rest, f, (fetchCommand_of_sync hdesync).trans hdecode, hmay, rfl⟩
  · obtain ⟨rest, hcmd⟩ := head_of_decode_illegal hdecode
    exact .inr ⟨op, rest, hcmd, (fetchCommand_of_sync hdesync).trans hdecode, by rw [takeIllegal_of_ne hs, hcmd]; rfl⟩
  · exact absurd ht hs

/-- The phase and the fault record of `s` stand in `t` (R161). -/
def KeepsFault (s t : State) : Prop := t.phase = .fault ∧ t.err = s.err ∧ t.errinfo = s.errinfo ∧ t.errop = s.errop

/-- In phase `FAULT` no command but `RST` touches the record: it is written on entry only (`registersChangeOnlyByTheirWriters`). -/
theorem exec_keepsFault {s t : State} {i : Instr} (hs : s.phase = .fault) (hrst : i ≠ .rst) (h : exec i s = .next t) :
    KeepsFault s t := by
  obtain ⟨-, -, -, -, -, -, hrecord, -⟩ := registersChangeOnlyByTheirWriters i s t hrst h
  exact ⟨(effect_of_exec h).phase_of_fault hrst hs, hrecord (.inr hs)⟩

/-- In phase `FAULT` a step keeps the record, but for one that executes `RST`. -/
theorem step_keepsFault {s t : State} (hs : s.phase = .fault) (h : step s = .next t) :
    KeepsFault s t ∨ ∃ rest, fetchCommand s = .command .rst rest := by
  obtain ⟨i, rest, hdesync, hdecode, hexec⟩ | ⟨op, -, -, rfl⟩ | ⟨-, rfl⟩ := step_cases h
  · by_cases hrst : i = .rst
    · subst hrst
      exact .inr ⟨rest, (fetchCommand_of_sync hdesync).trans hdecode⟩
    · exact .inl (exec_keepsFault (s := takeCommand rest s) hs hrst hexec)
  · rw [takeIllegal_of_fault hs]
    exact .inl ⟨hs, rfl, rfl, rfl⟩
  · exact .inl ⟨hs, rfl, rfl, rfl⟩

/-- Settles O40: R30 (i) for phase `DONE`; from phase `FAULT`, `step_keepsFault`, and the host's other acts write no
register. -/
theorem faultRecordIsSticky : Obligations.FaultRecordIsSticky := by
  refine ⟨fun s hb hdone => hb.fault_recorded.2 (by rw [hdone]; nofun), fun e s t hs hevent => ?_⟩
  cases e with
  | step => exact (step_keepsFault hs hevent).imp_right fun hrst => .inr ⟨rfl, hrst⟩
  | send bytes => cases hevent; exact .inl ⟨hs, rfl, rfl, rfl⟩
  | takeResponse => cases hevent; exact .inl ⟨hs, rfl, rfl, rfl⟩
  | hardReset => exact .inr (.inl rfl)

end Sys2Proof.Machine

namespace Sys2Proof.Machine

/-! ### What no page depends on (R182, R186)

`forget` erases the registers that no page depends on. A command whose meaning is `Blind` cannot tell two states apart that
are equal after the erasure, and leads to two such states again. -/

/-- `s` without the contents of `CRC` and `RSP` (R186); if `history`, also without everything else that `STR.OPEN` leaves
alone (R182) but `OUT_CAP`. -/
def forget (history : Bool) (s : State) : State :=
  { s with
    crc := 0
    rsp := []
    cmd := bif history then [] else s.cmd
    desync := bif history then false else s.desync
    err := bif history then 0 else s.err
    errinfo := bif history then 0 else s.errinfo
    errop := bif history then 0 else s.errop
    nbf := bif history then 0 else s.nbf
    spf := bif history then 0 else s.spf
    nsmp := bif history then 0 else s.nsmp }

/-- What `f` does to the registers that `forget` keeps, it does without the ones that `forget` erases. -/
def Blind (history : Bool) (f : State → State) : Prop :=
  ∀ s, forget history (f s) = forget history (f (forget history s))

section
variable {history : Bool}

/-- The two-run form of `Blind`. -/
theorem Blind.congr {f : State → State} (h : Blind history f) {s t : State} (hst : forget history s = forget history t) :
    forget history (f s) = forget history (f t) :=
  calc forget history (f s) = forget history (f (forget history s)) := h s
    _ = forget history (f (forget history t)) := by rw [hst]
    _ = forget history (f t) := (h t).symm

theorem Blind.comp {f g : State → State} (hg : Blind history g) (hf : Blind history f) : Blind history fun s => g (f s) :=
  fun s => hg.congr (hf s)

/-! A test of kept registers goes the same way in both runs, and each branch may then be taken by itself. -/

theorem Blind.ite {c : State → Prop} [∀ s, Decidable (c s)] {f g : State → State}
    (hc : ∀ s, c (forget history s) ↔ c s) (hf : Blind history f) (hg : Blind history g) :
    Blind history fun s => if c s then f s else g s := by
  intro s
  by_cases h : c s
  · simpa only [if_pos h, if_pos ((hc s).2 h)] using hf s
  · simpa only [if_neg h, if_neg (mt (hc s).1 h)] using hg s

theorem blind_id : Blind history fun s => s := fun s => by cases history <;> rfl

theorem Blind.unlessFault {f : State → State} (h : Blind history f) : Blind history (unlessFault f) :=
  .ite (fun _ => .rfl) blind_id h

theorem blind_raise (f : FaultCode) (op : Byte) {info : State → BitVec 32}
    (hinfo : ∀ s, info (forget history s) = info s) : Blind history fun s => raise f (info s) op s := by
  refine .ite (fun _ => .rfl) blind_id fun s => ?_
  rw [hinfo]
  cases history <;> rfl

/-- A command that executes in phase `p` only. -/
theorem Blind.phaseGuard {f : State → State} (h : Blind history f) (op : Byte) (p : Phase) :
    Blind history fun s => if s.phase ≠ p then raiseSequence op s else f s :=
  .ite (fun _ => .rfl) (blind_raise _ op fun _ => rfl) h

/-! ### The commands are blind -/

/-- The write of the three `CRC` commands, whatever it makes of the old value. -/
theorem blind_unlessFault_setCrc (c : State → BitVec 32) : Blind history fun s => unlessFault (setCrc (c s)) s :=
  .ite (fun _ => .rfl) blind_id fun s => by cases history <;> rfl

theorem blind_respond (v : State → BitVec 64) : Blind history fun s => respond (v s) s := fun s => by cases history <;> rfl

theorem blind_setDuration (d : Duration) : Blind history (setDuration d) := fun s => by cases history <;> rfl

theorem blind_softReset : Blind history softReset := fun s => by cases history <;> rfl

theorem blind_holdTagsPage : Blind history holdTagsPage := fun s => by cases history <;> rfl

theorem blind_openStream (serial : BitVec 32) (preskip : BitVec 16) (nsamp : BitVec 32) :
    Blind history (openStream serial preskip nsamp) := fun s => by cases history <;> rfl

theorem blind_setPhase (p : Phase) : Blind history (setPhase p) := fun s => by cases history <;> rfl

theorem blind_appendPacket (p : Packet) : Blind history (appendPacket p) := fun s => by cases history <;> rfl

/-- R112 writes `CRC` and does not read it: the checksum of a page starts from 0. -/
theorem blind_emitPage (flags : Byte) (granule : BitVec 64) : Blind history (emitPage flags granule) :=
  fun s => by cases history <;> rfl

theorem blind_emitPending (flags : Byte) {granule : State → BitVec 64}
    (hgranule : ∀ s, granule (forget history s) = granule s) : Blind history fun s => emitPending flags (granule s) s := by
  intro s
  beta_reduce
  rw [hgranule]
  cases history <;> rfl

theorem blind_placeAudio (d : Duration) (data : Packet) : Blind history (placeAudio d data) := by
  intro s
  have hflush : mustFlush data (forget history s) = mustFlush data s := rfl
  unfold placeAudio
  rw [hflush]
  cases mustFlush data s <;> cases history <;> rfl

/-! A meaning is a guard, then the faults it can raise, then its effect; each part is blind. -/

theorem exec_rd_blind (reg : Byte) : ∃ f, Blind history f ∧ ∀ s, exec (.rd reg) s = .next (f s) := by
  by_cases hreg : 0x12 ≤ reg.toNat
  · exact ⟨_, (blind_raise _ 0x02 fun _ => rfl).unlessFault, exec_rd_of_reserved hreg⟩
  · refine ⟨_, blind_respond fun s => (readReg reg s).getD 0, fun s => exec_rd_of_readReg ?_⟩
    have hmapped : readReg reg s ≠ none := mt (readReg_eq_none_iff reg s).1 hreg
    obtain ⟨v, hv⟩ := Option.ne_none_iff_exists'.1 hmapped
    rw [hv, Option.getD_some]

theorem exec_durCalc_blind (data : Packet) : ∃ f, Blind history f ∧ ∀ s, exec (.durCalc data) s = .next (f s) := by
  refine ⟨_, .unlessFault ?_, fun _ => rfl⟩
  cases nbSamples data with
  | error f => exact blind_raise f _ fun _ => rfl
  | ok d => exact blind_setDuration d

theorem exec_strOpen_blind (serial : BitVec 32) (preskip : BitVec 16) (nsamp : BitVec 32) :
    ∃ f, Blind history f ∧ ∀ s, exec (.strOpen serial preskip nsamp) s = .next (f s) :=
  ⟨_, .unlessFault (.ite (fun _ => .rfl) (blind_raise _ _ fun _ => rfl) (blind_openStream serial preskip nsamp)), fun _ => rfl⟩

theorem exec_pktHead_blind (data : Packet) : ∃ f, Blind history f ∧ ∀ s, exec (.pktHead data) s = .next (f s) := by
  refine ⟨_, .unlessFault (.phaseGuard (.ite (fun _ => .rfl) ?segments (.ite (fun _ => .rfl) ?overflow ?emitted)) _ _),
    fun _ => rfl⟩
  case segments => exact blind_raise _ _ fun _ => rfl
  case overflow => exact blind_raise _ _ fun _ => rfl
  case emitted => exact (blind_setPhase .tags).comp ((blind_emitPage _ 0).comp (blind_appendPacket data))

theorem exec_pktTags_blind (data : Packet) : ∃ f, Blind history f ∧ ∀ s, exec (.pktTags data) s = .next (f s) := by
  refine ⟨_, .unlessFault (.phaseGuard (.ite (fun _ => .rfl) ?segments ?held) _ _), fun _ => rfl⟩
  case segments => exact blind_raise _ _ fun _ => rfl
  case held => exact (blind_setPhase .audio).comp (blind_holdTagsPage.comp (blind_appendPacket data))

theorem exec_pktAud_blind (data : Packet) : ∃ f, Blind history f ∧ ∀ s, exec (.pktAud data) s = .next (f s) := by
  refine ⟨_, .unlessFault (.phaseGuard (.ite (fun _ => .rfl) ?segments ?measured) _ _), fun _ => rfl⟩
  case segments => exact blind_raise _ _ fun _ => rfl
  case measured =>
    cases nbSamples data with
    | error f => exact blind_raise f _ fun _ => rfl
    | ok d => exact .ite (fun _ => .rfl) (blind_raise _ _ fun _ => rfl) (blind_placeAudio d data)

theorem exec_strFin_blind : ∃ f, Blind history f ∧ ∀ s, exec .strFin s = .next (f s) := by
  refine ⟨_, .unlessFault (.phaseGuard (.ite (fun _ => .rfl) ?overflow ?finished) _ _), fun _ => rfl⟩
  case overflow => exact blind_raise _ _ fun _ => rfl
  case finished => exact (blind_setPhase .done).comp (blind_emitPending _ fun _ => rfl)

variable (history)

/-- Every command is a blind function of the state. -/
theorem exec_blind (i : Instr) : ∃ f, Blind history f ∧ ∀ s, exec i s = .next (f s) := by
  cases i with
  | nop => exact ⟨_, blind_id, exec_nop⟩
  | rst => exact ⟨_, blind_softReset, fun _ => rfl⟩
  | rd reg => exact exec_rd_blind reg
  | crcClr => exact ⟨_, blind_unlessFault_setCrc fun _ => Config.crcInit, fun _ => rfl⟩
  | crcUpd8 imm8 => exact ⟨_, blind_unlessFault_setCrc fun s => crcStep s.crc imm8, fun _ => rfl⟩
  | crcUpd data => exact ⟨_, blind_unlessFault_setCrc fun s => crcFold s.crc data, fun _ => rfl⟩
  | durCalc data => exact exec_durCalc_blind data
  | strOpen serial preskip nsamp => exact exec_strOpen_blind serial preskip nsamp
  | pktHead data => exact exec_pktHead_blind data
  | pktTags data => exact exec_pktTags_blind data
  | pktAud data => exact exec_pktAud_blind data
  | strFin => exact exec_strFin_blind

variable {history} {s₁ s₂ : State}

/-- A command executed on two states that differ in forgotten registers only leads to two such states. -/
theorem exec_of_forget_eq (i : Instr) (h : forget history s₁ = forget history s₂) :
    ∃ t₁ t₂, exec i s₁ = .next t₁ ∧ exec i s₂ = .next t₂ ∧ forget history t₁ = forget history t₂ := by
  obtain ⟨f, hblind, hexec⟩ := exec_blind history i
  exact ⟨f s₁, f s₂, hexec s₁, hexec s₂, hblind.congr h⟩

/-- So does a list of commands, by induction on the list. -/
theorem execAll_of_forget_eq (is : List Instr) (h : forget history s₁ = forget history s₂) :
    ∃ t₁ t₂, execAll is s₁ = .next t₁ ∧ execAll is s₂ = .next t₂ ∧ forget history t₁ = forget history t₂ := by
  induction is generalizing s₁ s₂ with
  | nil => exact ⟨s₁, s₂, rfl, rfl, h⟩
  | cons i is ih =>
    obtain ⟨t₁, t₂, hexec₁, hexec₂, ht⟩ := exec_of_forget_eq i h
    rw [execAll_cons_of_exec hexec₁, execAll_cons_of_exec hexec₂]
    exact ih ht

end

/-! ### `CRC` cannot reach a page, and a stream does not depend on the past -/

/-- States that `forget false` makes equal differ at most in `CRC` and `RSP`. -/
theorem eq_of_forget_false_eq {t u : State} (h : forget false t = forget false u) :
    u = { t with crc := u.crc, rsp := u.rsp } := by
  have hrestored : ∀ v : State, v = { forget false v with crc := v.crc, rsp := v.rsp } := fun _ => rfl
  rw [hrestored u, ← h]
  rfl

/-- `STR.OPEN` writes every register that `forget true` keeps, but for the capacity (R182). -/
theorem forget_openStream_eq {s₁ s₂ : State} (hcap : s₁.outCap = s₂.outCap) (serial : BitVec 32) (preskip : BitVec 16)
    (nsamp : BitVec 32) :
    forget true (openStream serial preskip nsamp s₁) = forget true (openStream serial preskip nsamp s₂) := by
  simp [forget, openStream, hcap]

theorem readyForStream_iff {p : Phase} : readyForStream p = true ↔ p = .idle ∨ p = .done := by
  simp [readyForStream]

/-- `forget` keeps the phase, `OUT` and with them what the host reads. -/
theorem output_of_forget_eq {history : Bool} {t u : State} (h : forget history t = forget history u) :
    t.phase = u.phase ∧ t.out = u.out ∧ t.readOut = u.readOut :=
  ⟨(congrArg State.phase h :), (congrArg State.out h :), (congrArg State.readOut h :)⟩

/-- Settles O58: `STR.OPEN` makes the two states equal but for forgotten registers, and no command can tell them apart. -/
theorem outputIndependentOfHistory : Obligations.OutputIndependentOfHistory := by
  intro s₁ s₂ serial preskip nsamp is hready₁ hready₂ hcap
  obtain ⟨t₁, t₂, hexec₁, hexec₂, ht⟩ := execAll_of_forget_eq is (forget_openStream_eq hcap serial preskip nsamp)
  rw [readyForStream_iff] at hready₁ hready₂
  rw [execAll_cons_of_exec (exec_strOpen_of_ready hready₁ ..), execAll_cons_of_exec (exec_strOpen_of_ready hready₂ ..)]
  exact ⟨t₁, t₂, hexec₁, hexec₂, output_of_forget_eq ht⟩

/-- Settles O42: the two states differ in a forgotten register, so the command leads to two that do. -/
theorem crcRegisterCannotCorruptPages : Obligations.CrcRegisterCannotCorruptPages := by
  intro i s c
  have hsame : forget false s = forget false { s with crc := c } := rfl
  obtain ⟨t, u, hexec, hexec', htu⟩ := exec_of_forget_eq i hsame
  exact ⟨t, u, hexec, hexec', eq_of_forget_false_eq htu⟩

end Sys2Proof.Machine
